-- ==== Sys2Proof/Word.lean ====
section
/-! DEFINITION. The two word types of the machine (00_scope.md R6). -/

namespace Sys2Proof

/-- A `Byte` of rule R6: AC, X, Y, SP, SR and every memory byte. -/
abbrev Byte := BitVec 8

/-- A `Word` of rule R6: the program counter and every memory address. -/
abbrev Word := BitVec 16

end Sys2Proof
end

