-- ==== Sys2Proof/Syntax.lean ====
section
/-! DEFINITION. The instruction set as syntax: the eight formats (30_encoding.md R81), the 35 entries of the
dispatch table (R82, R84) and the instructions themselves, one constructor per row of spec/opcode_table.json. -/

namespace Sys2Proof

/-- The eight formats of 30_encoding.md R81. -/
inductive Format where
  | imp | imm | zp | zpx | zpy | abs | abx | rel
deriving DecidableEq, Repr

/-- The 35 pairs (operation, format) a mapped opcode byte can select (R82, R84). -/
inductive Entry where
  | oraZp | oraImm | oraAbs | jsrAbs | andZp
  | andImm | andAbs | jmpAbs | rts | sei
  | dey | styAbs | stxAbs | txs | ldyImm
  | ldxImm | ldyZp | ldaZp | ldxZp | tay
  | ldaImm | tax | ldyZpx | ldaZpx | ldxZpy
  | iny | dex | decAbs | bneRel | cld
  | cmpAbx | inx | nop | incAbs | beqRel
deriving DecidableEq, Repr

/-- An instruction with its raw operand (R83): `imm8`, `zp8` and `rel8` are operand byte 1, `abs16` is
`{hi8, lo8}` of operand bytes 1 and 2. Every value of an operand is legal (R82). -/
inductive Instr where
  | oraZp (zp8 : Byte)  -- 0x05 ORA ZP, R131
  | oraImm (imm8 : Byte)  -- 0x09 ORA IMM, R131
  | oraAbs (abs16 : Word)  -- 0x0D ORA ABS, R131
  | jsrAbs (abs16 : Word)  -- 0x20 JSR ABS, R161
  | andZp (zp8 : Byte)  -- 0x25 AND ZP, R130
  | andImm (imm8 : Byte)  -- 0x29 AND IMM, R130
  | andAbs (abs16 : Word)  -- 0x2D AND ABS, R130
  | jmpAbs (abs16 : Word)  -- 0x4C JMP ABS, R160
  | rts  -- 0x60 RTS IMP, R162
  | sei  -- 0x78 SEI IMP, R172
  | dey  -- 0x88 DEY IMP, R145
  | styAbs (abs16 : Word)  -- 0x8C STY ABS, R154
  | stxAbs (abs16 : Word)  -- 0x8E STX ABS, R153
  | txs  -- 0x9A TXS IMP, R157
  | ldyImm (imm8 : Byte)  -- 0xA0 LDY IMM, R152
  | ldxImm (imm8 : Byte)  -- 0xA2 LDX IMM, R151
  | ldyZp (zp8 : Byte)  -- 0xA4 LDY ZP, R152
  | ldaZp (zp8 : Byte)  -- 0xA5 LDA ZP, R150
  | ldxZp (zp8 : Byte)  -- 0xA6 LDX ZP, R151
  | tay  -- 0xA8 TAY IMP, R156
  | ldaImm (imm8 : Byte)  -- 0xA9 LDA IMM, R150
  | tax  -- 0xAA TAX IMP, R155
  | ldyZpx (zp8 : Byte)  -- 0xB4 LDY ZPX, R152
  | ldaZpx (zp8 : Byte)  -- 0xB5 LDA ZPX, R150
  | ldxZpy (zp8 : Byte)  -- 0xB6 LDX ZPY, R151
  | iny  -- 0xC8 INY IMP, R144
  | dex  -- 0xCA DEX IMP, R143
  | decAbs (abs16 : Word)  -- 0xCE DEC ABS, R141
  | bneRel (rel8 : Byte)  -- 0xD0 BNE REL, R164
  | cld  -- 0xD8 CLD IMP, R171
  | cmpAbx (abs16 : Word)  -- 0xDD CMP ABX, R132
  | inx  -- 0xE8 INX IMP, R142
  | nop  -- 0xEA NOP IMP, R170
  | incAbs (abs16 : Word)  -- 0xEE INC ABS, R140
  | beqRel (rel8 : Byte)  -- 0xF0 BEQ REL, R163
deriving DecidableEq, Repr

/-- The dispatch-table entry an instruction belongs to. -/
def Instr.entry : Instr → Entry
  | .oraZp _ => .oraZp
  | .oraImm _ => .oraImm
  | .oraAbs _ => .oraAbs
  | .jsrAbs _ => .jsrAbs
  | .andZp _ => .andZp
  | .andImm _ => .andImm
  | .andAbs _ => .andAbs
  | .jmpAbs _ => .jmpAbs
  | .rts => .rts
  | .sei => .sei
  | .dey => .dey
  | .styAbs _ => .styAbs
  | .stxAbs _ => .stxAbs
  | .txs => .txs
  | .ldyImm _ => .ldyImm
  | .ldxImm _ => .ldxImm
  | .ldyZp _ => .ldyZp
  | .ldaZp _ => .ldaZp
  | .ldxZp _ => .ldxZp
  | .tay => .tay
  | .ldaImm _ => .ldaImm
  | .tax => .tax
  | .ldyZpx _ => .ldyZpx
  | .ldaZpx _ => .ldaZpx
  | .ldxZpy _ => .ldxZpy
  | .iny => .iny
  | .dex => .dex
  | .decAbs _ => .decAbs
  | .bneRel _ => .bneRel
  | .cld => .cld
  | .cmpAbx _ => .cmpAbx
  | .inx => .inx
  | .nop => .nop
  | .incAbs _ => .incAbs
  | .beqRel _ => .beqRel

end Sys2Proof
end

