-- ==== Sys2Proof/WellFormed.lean ====
section
/-! DEFINITION. Well-formedness. Operands are typed by their width and every operand value is legal (30_encoding.md
R82), so what an instruction can lack is a row of the opcode map, and what can be wrong is the map itself. -/

namespace Sys2Proof

/-- A value of the parameter `OPCODE_MAP` (00_scope.md R5): the mapped opcode bytes with their entries. -/
abbrev OpcodeMap := List (Byte × Entry)

/-- No opcode byte has two entries: the map is a function of the byte (R82). -/
def OpcodeMap.bytesDistinct (m : OpcodeMap) : Bool := decide (m.map Prod.fst).Nodup

/-- No entry has two opcode bytes, so that encoding is a function too (R84: 35 bytes for 35 pairs). -/
def OpcodeMap.entriesDistinct (m : OpcodeMap) : Bool := decide (m.map Prod.snd).Nodup

/-- A well-formed opcode map. -/
def OpcodeMap.wf (m : OpcodeMap) : Bool := m.bytesDistinct && m.entriesDistinct

/-- The instruction exists under this map: some opcode byte selects its entry. -/
def Instr.wfIn (m : OpcodeMap) (i : Instr) : Bool := m.any fun r => r.2 == i.entry

end Sys2Proof
end

