-- ==== Sys2Proof/Decode.lean ====
section
/-! DEFINITION. The opcode map, the decoder (total on any bytes, rejecting by name) and the encoder, all read from
30_encoding.md R80 to R86, with the byte-order helpers they use. -/

namespace Sys2Proof

/-! ### Byte order (R54, R83) -/

/-- `{hi, lo}` of R6: the Word `hi * 256 + lo`. -/
def joinBytes (hi lo : Byte) : Word := hi ++ lo

/-- `w[7:0]` of R6. -/
def lowByte (w : Word) : Byte := w.extractLsb' 0 8

/-- `w[15:8]` of R6. -/
def highByte (w : Word) : Byte := w.extractLsb' 8 8

/-! ### The dispatch table -/

/-- How many operand bytes a format consumes (R81). -/
def Format.operandCount : Format → Nat
  | .imp => 0
  | .imm | .zp | .zpx | .zpy | .rel => 1
  | .abs | .abx => 2

/-- The format column of R84. -/
def Entry.format : Entry → Format
  | .rts | .sei | .dey | .txs | .tay | .tax
  | .iny | .dex | .cld | .inx | .nop => .imp
  | .oraImm | .andImm | .ldyImm | .ldxImm | .ldaImm => .imm
  | .oraZp | .andZp | .ldyZp | .ldaZp | .ldxZp => .zp
  | .ldyZpx | .ldaZpx => .zpx
  | .ldxZpy => .zpy
  | .oraAbs | .jsrAbs | .andAbs | .jmpAbs | .styAbs | .stxAbs
  | .decAbs | .incAbs => .abs
  | .cmpAbx => .abx
  | .bneRel | .beqRel => .rel

/-- `OPCODE_MAP` (00_scope.md R5, 30_encoding.md R84): the 35 mapped opcode bytes in ascending order; every other
byte is unmapped (R85). PRESUMED (log 1): 34 of the bytes are the spec's decision D1, general knowledge; 0x60 is
the source's. -/
def opcodeMap : OpcodeMap :=
  [(0x05, .oraZp), (0x09, .oraImm), (0x0D, .oraAbs), (0x20, .jsrAbs), (0x25, .andZp),
   (0x29, .andImm), (0x2D, .andAbs), (0x4C, .jmpAbs), (0x60, .rts), (0x78, .sei),
   (0x88, .dey), (0x8C, .styAbs), (0x8E, .stxAbs), (0x9A, .txs), (0xA0, .ldyImm),
   (0xA2, .ldxImm), (0xA4, .ldyZp), (0xA5, .ldaZp), (0xA6, .ldxZp), (0xA8, .tay),
   (0xA9, .ldaImm), (0xAA, .tax), (0xB4, .ldyZpx), (0xB5, .ldaZpx), (0xB6, .ldxZpy),
   (0xC8, .iny), (0xCA, .dex), (0xCE, .decAbs), (0xD0, .bneRel), (0xD8, .cld),
   (0xDD, .cmpAbx), (0xE8, .inx), (0xEA, .nop), (0xEE, .incAbs), (0xF0, .beqRel)]

/-- The table as a total function of the opcode byte (R82): `none` is "unmapped". -/
def lookup (opcode : Byte) : Option Entry := opcodeMap.lookup opcode

/-- The opcode byte of an entry, read from the same table. -/
def opcodeOf (e : Entry) : Option Byte := (opcodeMap.find? fun r => r.2 == e).map Prod.fst

/-- An instruction of this hardware: the opcode map maps its entry. -/
def Instr.wf (i : Instr) : Bool := i.wfIn opcodeMap

/-- The length of an instruction in bytes (R80, R81): the opcode byte and its operand bytes. -/
def Instr.length (i : Instr) : Nat := 1 + i.entry.format.operandCount

/-! ### Decoding -/

/-- The instruction made of an entry and its operand bytes in ascending address order (R83). -/
def assemble (e : Entry) (operands : List Byte) : Instr :=
  let b1 := operands.getD 0 0
  let b2 := operands.getD 1 0
  match e with
  | .oraZp => .oraZp b1
  | .oraImm => .oraImm b1
  | .oraAbs => .oraAbs (joinBytes b2 b1)
  | .jsrAbs => .jsrAbs (joinBytes b2 b1)
  | .andZp => .andZp b1
  | .andImm => .andImm b1
  | .andAbs => .andAbs (joinBytes b2 b1)
  | .jmpAbs => .jmpAbs (joinBytes b2 b1)
  | .rts => .rts
  | .sei => .sei
  | .dey => .dey
  | .styAbs => .styAbs (joinBytes b2 b1)
  | .stxAbs => .stxAbs (joinBytes b2 b1)
  | .txs => .txs
  | .ldyImm => .ldyImm b1
  | .ldxImm => .ldxImm b1
  | .ldyZp => .ldyZp b1
  | .ldaZp => .ldaZp b1
  | .ldxZp => .ldxZp b1
  | .tay => .tay
  | .ldaImm => .ldaImm b1
  | .tax => .tax
  | .ldyZpx => .ldyZpx b1
  | .ldaZpx => .ldaZpx b1
  | .ldxZpy => .ldxZpy b1
  | .iny => .iny
  | .dex => .dex
  | .decAbs => .decAbs (joinBytes b2 b1)
  | .bneRel => .bneRel b1
  | .cld => .cld
  | .cmpAbx => .cmpAbx (joinBytes b2 b1)
  | .inx => .inx
  | .nop => .nop
  | .incAbs => .incAbs (joinBytes b2 b1)
  | .beqRel => .beqRel b1

/-- Why a byte list is no instruction. -/
inductive Reject where
  /-- The opcode byte has no entry in the table (R85). -/
  | unmappedOpcode (opcode : Byte)
  /-- The list ends before the instruction does; never met when bytes come from memory, which is total (R53). -/
  | endOfBytes
deriving DecidableEq, Repr

/-- The instruction at the front of a byte list, and the bytes after it (R80, R82). -/
def decode : List Byte → Except Reject (Instr × List Byte)
  | [] => .error .endOfBytes
  | opcode :: rest =>
    match lookup opcode with
    | none => .error (.unmappedOpcode opcode)
    | some e =>
      if rest.length < e.format.operandCount then .error .endOfBytes
      else .ok (assemble e (rest.take e.format.operandCount), rest.drop e.format.operandCount)

/-! ### Encoding -/

/-- The operand bytes in ascending address order, the low byte of an address first (R81, R83). -/
def Instr.operandBytes : Instr → List Byte
  | .oraImm b | .andImm b | .ldyImm b | .ldxImm b | .ldaImm b => [b]
  | .oraZp b | .andZp b | .ldyZp b | .ldaZp b | .ldxZp b => [b]
  | .ldyZpx b | .ldaZpx b => [b]
  | .ldxZpy b => [b]
  | .bneRel b | .beqRel b => [b]
  | .oraAbs a | .jsrAbs a | .andAbs a | .jmpAbs a | .styAbs a
  | .stxAbs a | .decAbs a | .cmpAbx a | .incAbs a => [lowByte a, highByte a]
  | .rts | .sei | .dey | .txs | .tay | .tax | .iny | .dex | .cld | .inx | .nop => []

/-- The bytes of a well-formed instruction, opcode first (R80); an instruction whose entry is not mapped has none. -/
def encode (i : Instr) : List Byte :=
  match opcodeOf i.entry with
  | some opcode => opcode :: i.operandBytes
  | none => []

/-! ### Instructions as numbers, for the host's opcode-table checks -/

/-- The three bytes, lowest address first, of an instruction given as a number whose bit 0 is the least
significant bit of its first byte; the bits from `nbits` on are 0. Three bytes is the longest instruction (R81). -/
def tableBytes (nbits w : Nat) : List Byte :=
  let v := w % 2 ^ nbits
  [BitVec.ofNat 8 v, BitVec.ofNat 8 (v / 256), BitVec.ofNat 8 (v / 65536)]

/-- What the decoder reads from an opcode-table row's word. -/
def decodeTableWord (nbits w : Nat) : Option Instr :=
  match decode (tableBytes nbits w) with
  | .ok (i, _) => some i
  | .error _ => none

end Sys2Proof
end

