-- ==== Sys2Proof/Config.lean ====
section
/-! DEFINITION. The implementation parameters of 00_scope.md R5 that are values. `DATA_W` and `ADDR_W` are the
types `Byte` and `Word`; `OPCODE_MAP` is `Sys2Proof.opcodeMap` (Decode.lean); `N_MODES` and `N_AGENTS` are 1,
so they need no field; `END_OF_RUN` is an argument of `Sys2Proof.Machine.runUntil` (Safety.lean). The source leaves
no value open, so this machine has no free values. -/

namespace Sys2Proof.Config

/-- `MEM_SIZE` (R5): addresses 0x0000 to 0xFFFF. -/
def memSize : Nat := 65536

/-- The high byte of `STACK_BASE` = 0x0100 (R5): the stack location is `{0x01, SP}` (R22). -/
def stackPage : Byte := 0x01

/-- `RESET_PC` (R5, R33). -/
def resetPc : Word := 0x0000

/-- `RESET_SP` (R5, R33). -/
def resetSp : Byte := 0x00

/-- `RESET_AC` (R5, R33). -/
def resetAc : Byte := 0x00

/-- `RESET_X` (R5, R33). -/
def resetX : Byte := 0x00

/-- `RESET_Y` (R5, R33). -/
def resetY : Byte := 0x00

/-- `RESET_SR` (R5, R33): all eight bits 0, bit 5 included (R29). -/
def resetSr : Byte := 0x00

/-- `RESET_MEM` (R5, R33): every byte after construction, so also what an address that memory does not list
reads as (R51). -/
def resetMem : Byte := 0x00

end Sys2Proof.Config
end

