-- ==== Sys2Proof/Machine/State.lean ====
section
/-! DEFINITION. The state of the machine (10_state.md: six registers and one memory array, and nothing else, R32),
its reset value, and the reasons a step can stop. -/

namespace Sys2Proof.Machine

/-- The 65536-byte memory array (10_state.md R30) as the list of its bytes that differ from
`Memory.unlisted`, by address. -/
abbrev Memory := List Host.Cell

/-- What an address that is not listed reads as: the reset contents (R33, R51). -/
def Memory.unlisted : Byte := Config.resetMem

/-- The canonical form: addresses strictly rising and inside the address space, no entry equal to
`Memory.unlisted`. -/
def Memory.wf (m : Memory) : Bool :=
  decide (m.Pairwise fun c d => c.1 < d.1) &&
    m.all fun c => decide (c.1 < Config.memSize) && decide (c.2 ≠ Memory.unlisted)

/-- The whole state of the block (10_state.md R20, R30, R32). -/
structure State where
  /-- Program counter (R21). -/
  pc  : Word
  /-- Stack pointer: an offset inside the stack page (R22). -/
  sp  : Byte
  /-- Accumulator (R23). -/
  ac  : Byte
  /-- Index register X (R24). -/
  x   : Byte
  /-- Index register Y (R25). -/
  y   : Byte
  /-- Status byte N V U B D I Z C, bit 7 to bit 0 (R26); the flags are its bits and have no second copy (R28). -/
  sr  : Byte
  /-- Memory (R30). -/
  mem : Memory
deriving DecidableEq, Repr

/-- The state after construction, the only reset (10_state.md R33, 70_reset_and_hazards.md R200). -/
def State.reset : State where
  pc  := Config.resetPc
  sp  := Config.resetSp
  ac  := Config.resetAc
  x   := Config.resetX
  y   := Config.resetY
  sr  := Config.resetSr
  mem := []

/-- The machine's own invariant: memory is in canonical form. -/
def State.wf (s : State) : Bool := s.mem.wf

/-- Why a step faults: one reason (60_exceptions.md R180). -/
inductive Fault where
  /-- `UnmappedOpcode(opcode, at)` (R180): raised by `step` when it fetched `opcode` from `addr` and the
  opcode map has no entry for it. `observed` is the state the host then sees (R181). Safe: the spec itself ends
  the run here (R185); the payload is the spec's decision D9 and, for `observed`, log 8. -/
  | unmappedOpcode (opcode : Byte) (addr : Word) (observed : State)
deriving DecidableEq, Repr

/-- The state the host observes after a fault (R181), from which a new run may start (R185). -/
def Fault.observed : Fault → State
  | .unmappedOpcode _ _ s => s

/-- Why an instruction is refused. -/
inductive Refusal where
  /-- An arm of `exec` without a meaning; no arm raises it in this model. Safe. -/
  | notModelled (mnemonic : String)
deriving DecidableEq, Repr

end Sys2Proof.Machine
end

