-- ==== Sys2Proof/Machine/Ops.lean ====
section
/-! DEFINITION. The shared operations over memory and registers: `MemRead`, `MemWrite` (20_memory.md R51, R52), the
register file (00_scope.md R8), `Push` and `Pop` (R63, R64), `Fetch` (40_step_and_addressing.md R101), loading bytes,
and raising the one exception (60_exceptions.md). -/

namespace Sys2Proof.Machine

/-! ### The memory array -/

/-- The byte at an address: the first listed one, else `Memory.unlisted`. -/
def Memory.read : Memory → Nat → Byte
  | [], _ => Memory.unlisted
  | (k, b) :: m, a => if k = a then b else Memory.read m a

/-- Lists a byte at its place, over the one that was there. -/
def Memory.insert (a : Nat) (v : Byte) : Memory → Memory
  | [] => [(a, v)]
  | (k, b) :: m =>
    if k < a then (k, b) :: Memory.insert a v m
    else if k = a then (a, v) :: m
    else (a, v) :: (k, b) :: m

/-- Stores a byte: storing `Memory.unlisted` takes the entry out, so equal memories stay equal lists. -/
def Memory.write (m : Memory) (a : Nat) (v : Byte) : Memory :=
  if v = Memory.unlisted then m.filter fun c => c.1 ≠ a else Memory.insert a v m

/-- `MemRead(addr, 1)` (R9, R51): total, no side effect. -/
def State.read (s : State) (a : Word) : Byte := s.mem.read a.toNat

/-- `MemWrite(addr, 1, v)` (R9, R52): total, changes that byte and nothing else. -/
def State.write (s : State) (a : Word) (v : Byte) : State := { s with mem := s.mem.write a.toNat v }

/-- Bytes stored at ascending addresses from `a`, modulo 65536 (R66: how a program gets into memory). -/
def State.load (s : State) (a : Word) : List Byte → State
  | [] => s
  | b :: bs => State.load (s.write a b) (a + 1) bs

/-! ### The register file -/

/-- The Byte registers that instructions name (R8). -/
inductive Reg where
  | ac | x | y | sp
deriving DecidableEq, Repr

/-- `x[r]` (R8). -/
def State.reg (s : State) : Reg → Byte
  | .ac => s.ac
  | .x => s.x
  | .y => s.y
  | .sp => s.sp

/-- `x[r] <- v` (R8); no register is hardwired and none aliases another (R20). -/
def State.setReg (s : State) (r : Reg) (v : Byte) : State :=
  match r with
  | .ac => { s with ac := v }
  | .x => { s with x := v }
  | .y => { s with y := v }
  | .sp => { s with sp := v }

/-- `pc <- target` (R8). -/
def State.setPc (s : State) (target : Word) : State := { s with pc := target }

/-! ### The stack -/

/-- The stack location a stack pointer designates: `{0x01, SP}` (R22). -/
def stackAddr (sp : Byte) : Word := joinBytes Config.stackPage sp

/-- `Push(b)` (R63): store at `{0x01, SP}`, then decrement SP modulo 256. -/
def State.push (s : State) (b : Byte) : State :=
  let s1 := s.write (stackAddr s.sp) b
  s1.setReg .sp (s1.sp - 1)

/-- `Pop()` (R64): increment SP modulo 256, then read at `{0x01, SP}`; memory keeps its bytes. DEDUCED (log 14). -/
def State.pop (s : State) : Byte × State :=
  let s1 := s.setReg .sp (s.sp + 1)
  (s1.read (stackAddr s1.sp), s1)

/-! ### Fetching -/

/-- `Fetch()` (R101): the byte at pc, and pc advanced by 1 modulo 65536. -/
def State.fetch (s : State) : Byte × State := (s.read s.pc, s.setPc (s.pc + 1))

/-- `n` fetches in a row: the operand bytes in ascending address order (R65, R101). -/
def State.fetchBytes : Nat → State → List Byte × State
  | 0, s => ([], s)
  | n + 1, s =>
    let f := s.fetch
    let r := State.fetchBytes n f.2
    (f.1 :: r.1, r.2)

/-! ### The exception -/

/-- Raising `UnmappedOpcode(opcode, at)` (60_exceptions.md R180, R181, R184): the whole of taking an exception on
this block. `s` is the state after the opcode fetch; nothing is pushed, no flag changes, no vector is read and pc is
not redirected, so it is also the state the host observes. There is no return from an exception (R185). -/
def raiseUnmappedOpcode (opcode : Byte) (addr : Word) (s : State) : Fault :=
  .unmappedOpcode opcode addr s

end Sys2Proof.Machine
end

