-- ==== Sys2Proof/Machine/Flags.lean ====
section
/-! DEFINITION. The flags as bits of SR (10_state.md R26, R28) and the two flag computations of the ALU: `SetZN`
(40_step_and_addressing.md R115) and CMP's (41_logic_compare.md R132). -/

namespace Sys2Proof.Machine

/-- The eight flags of R26. `u` is the "unused" bit 5, a plain storage bit (R29). -/
inductive Flag where
  | n | v | u | b | d | i | z | c
deriving DecidableEq, Repr

/-- The bit of SR a flag is (R26). -/
def Flag.bit : Flag → Nat
  | .n => 7 | .v => 6 | .u => 5 | .b => 4 | .d => 3 | .i => 2 | .z => 1 | .c => 0

/-- The weight of a flag's bit (R26). -/
def Flag.mask (f : Flag) : Byte := 1#8 <<< f.bit

/-- Reading a flag of a status byte: that bit of it (R28). -/
def getFlag (sr : Byte) (f : Flag) : Bool := sr.getLsbD f.bit

/-- Writing a flag of a status byte: exactly one bit changes (R28). -/
def putFlag (sr : Byte) (f : Flag) (v : Bool) : Byte :=
  if v then sr ||| f.mask else sr &&& ~~~ f.mask

/-- `SR.f` (00_scope.md R8). -/
def State.flag (s : State) (f : Flag) : Bool := getFlag s.sr f

/-- `SR.f <- v` (R8). -/
def State.setFlag (s : State) (f : Flag) (v : Bool) : State := { s with sr := putFlag s.sr f v }

/-- `SetZN(v)` (R115). -/
def State.setZN (s : State) (v : Byte) : State :=
  (s.setFlag .z (v == 0)).setFlag .n (v.getLsbD 7)

/-- The flags of a comparison of the register value `r` with `m` (R132): C is the unsigned `r >= m`, Z equality,
N bit 7 of the wrapped difference, which is stored nowhere. -/
def State.setCompare (s : State) (r m : Byte) : State :=
  ((s.setFlag .c (decide (m.toNat ≤ r.toNat))).setFlag .z (r == m)).setFlag .n ((r - m).getLsbD 7)

end Sys2Proof.Machine
end

