-- ==== Sys2Proof/Machine/Operands.lean ====
section
/-! DEFINITION. The operand forms (40_step_and_addressing.md R103 to R112). The operand bytes are fetched, and pc
moved past them, before an operation runs (Fetch.lean); here each format's raw operand becomes an effective address
or an immediate value. Format `IMP` yields nothing (R104), so its operations take no operand. -/

namespace Sys2Proof.Machine

/-- `zext_16(b)` (00_scope.md R7). -/
def zext16 (b : Byte) : Word := b.setWidth 16

/-- `sext_16(b)` (R7): 0x00 to 0x7F positive, 0x80 to 0xFF negative. -/
def sext16 (b : Byte) : Word := b.signExtend 16

/-- What `Resolve` yields for an operation that consumes a value (R103): `Imm(v)` or `Addr(a)`. -/
inductive Operand where
  | imm (v : Byte)
  | addr (a : Word)
deriving DecidableEq, Repr

/-- `Val(op)` (R112): one `MemRead` for an address, none for an immediate. -/
def Operand.val (op : Operand) (s : State) : Byte :=
  match op with
  | .imm v => v
  | .addr a => s.read a

/-- Effective address of `ZP` (R106). -/
def eaZp (zp8 : Byte) : Word := zext16 zp8

/-- Effective address of `ZPX` (R107): the sum wraps inside the zero page. -/
def eaZpx (zp8 : Byte) (s : State) : Word := zext16 (zp8 + s.x)

/-- Effective address of `ZPY` (R108): the sum wraps inside the zero page. -/
def eaZpy (zp8 : Byte) (s : State) : Word := zext16 (zp8 + s.y)

/-- Effective address of `ABS` (R109). -/
def eaAbs (abs16 : Word) : Word := abs16

/-- Effective address of `ABX` (R110): X unsigned, the sum wraps modulo 65536. -/
def eaAbx (abs16 : Word) (s : State) : Word := abs16 + zext16 s.x

/-- Effective address of `REL` (R111): relative to the pc after the displacement byte, which is the pc of the
state an operation runs in. -/
def eaRel (rel8 : Byte) (s : State) : Word := s.pc + sext16 rel8

end Sys2Proof.Machine
end

