-- ==== Sys2Proof/Machine/Control.lean ====
section
/-! DEFINITION. JMP, JSR, RTS, BEQ, BNE (44_control_transfer.md R160 to R164). -/

namespace Sys2Proof.Machine

/-- JSR's operation (R161): push the address of the instruction's last byte, high byte first, then jump. -/
def opCall (target : Word) (s : State) : State :=
  let ret := s.pc - 1
  ((s.push (highByte ret)).push (lowByte ret)).setPc target

/-- RTS's operation (R162): pop low then high, continue at the popped value plus 1. -/
def opReturn (s : State) : State :=
  let lo := s.pop
  let hi := lo.2.pop
  hi.2.setPc (joinBytes hi.1 lo.1 + 1)

/-- A conditional branch (R163, R164): the target if taken, else pc stays past the instruction. -/
def opBranch (taken : Bool) (target : Word) (s : State) : State := s.setPc (if taken then target else s.pc)

/-- JMP absolute, `4C ll hh` (R160). -/
def execJmpAbs (abs16 : Word) (s : State) : Host.Outcome State Fault Refusal := .next (s.setPc (eaAbs abs16))

/-- JSR absolute, `20 ll hh` (R161). -/
def execJsrAbs (abs16 : Word) (s : State) : Host.Outcome State Fault Refusal := .next (opCall (eaAbs abs16) s)

/-- RTS, `60` (R162). -/
def execRts (s : State) : Host.Outcome State Fault Refusal := .next (opReturn s)

/-- BEQ relative, `F0 rr` (R163): taken when Z is set. -/
def execBeqRel (rel8 : Byte) (s : State) : Host.Outcome State Fault Refusal :=
  .next (opBranch (s.flag .z) (eaRel rel8 s) s)

/-- BNE relative, `D0 rr` (R164): taken when Z is clear. -/
def execBneRel (rel8 : Byte) (s : State) : Host.Outcome State Fault Refusal :=
  .next (opBranch (!s.flag .z) (eaRel rel8 s) s)

end Sys2Proof.Machine
end

