-- ==== Sys2Proof/Machine/FlagNop.lean ====
section
/-! DEFINITION. NOP, CLD, SEI (45_flag_nop.md R170 to R172). -/

namespace Sys2Proof.Machine

/-- NOP, `EA` (R170): pc already stands past it. -/
def execNop (s : State) : Host.Outcome State Fault Refusal := .next s

/-- CLD, `D8` (R171). -/
def execCld (s : State) : Host.Outcome State Fault Refusal := .next (s.setFlag .d false)

/-- SEI, `78` (R172). -/
def execSei (s : State) : Host.Outcome State Fault Refusal := .next (s.setFlag .i true)

end Sys2Proof.Machine
end

