-- ==== Sys2Proof/Machine/IncDec.lean ====
section
/-! DEFINITION. INC, DEC, INX, DEX, INY, DEY (42_incdec.md R140 to R145). -/

namespace Sys2Proof.Machine

/-- `b +_8 1`: wraps from 0xFF to 0x00 (40_step_and_addressing.md R116). -/
def inc8 (b : Byte) : Byte := b + 1

/-- `b -_8 1`: wraps from 0x00 to 0xFF (R116). -/
def dec8 (b : Byte) : Byte := b - 1

/-- Read the byte at `a`, change it by `f`, write it back and set Z and N on the new value (R140, R141): one read and
one write of `a` (20_memory.md R65). -/
def opModifyMem (f : Byte → Byte) (a : Word) (s : State) : State :=
  let r := f (s.read a)
  (s.write a r).setZN r

/-- Change a register by `f` and set Z and N on the new value (R142 to R145). -/
def opModifyReg (f : Byte → Byte) (r : Reg) (s : State) : State :=
  let v := f (s.reg r)
  (s.setReg r v).setZN v

/-- INC absolute, `EE ll hh` (R140). -/
def execIncAbs (abs16 : Word) (s : State) : Host.Outcome State Fault Refusal := .next (opModifyMem inc8 (eaAbs abs16) s)

/-- DEC absolute, `CE ll hh` (R141). -/
def execDecAbs (abs16 : Word) (s : State) : Host.Outcome State Fault Refusal := .next (opModifyMem dec8 (eaAbs abs16) s)

/-- INX, `E8` (R142). -/
def execInx (s : State) : Host.Outcome State Fault Refusal := .next (opModifyReg inc8 .x s)

/-- DEX, `CA` (R143). -/
def execDex (s : State) : Host.Outcome State Fault Refusal := .next (opModifyReg dec8 .x s)

/-- INY, `C8` (R144). -/
def execIny (s : State) : Host.Outcome State Fault Refusal := .next (opModifyReg inc8 .y s)

/-- DEY, `88` (R145). -/
def execDey (s : State) : Host.Outcome State Fault Refusal := .next (opModifyReg dec8 .y s)

end Sys2Proof.Machine
end

