-- ==== Sys2Proof/Machine/LoadStore.lean ====
section
/-! DEFINITION. LDA, LDX, LDY, STX, STY, TAX, TAY, TXS (43_load_store_transfer.md R150 to R157). -/

namespace Sys2Proof.Machine

/-- Put a value into a register and set Z and N on it: the loads (R150 to R152) and TAX, TAY (R155, R156). -/
def opPutZN (r : Reg) (v : Byte) (s : State) : State := (s.setReg r v).setZN v

/-- LDA immediate, `A9 ii` (R150). -/
def execLdaImm (imm8 : Byte) (s : State) : Host.Outcome State Fault Refusal :=
  .next (opPutZN .ac ((Operand.imm imm8).val s) s)

/-- LDA zero-page, `A5 zz` (R150). -/
def execLdaZp (zp8 : Byte) (s : State) : Host.Outcome State Fault Refusal :=
  .next (opPutZN .ac ((Operand.addr (eaZp zp8)).val s) s)

/-- LDA zero-page,X, `B5 zz` (R150). -/
def execLdaZpx (zp8 : Byte) (s : State) : Host.Outcome State Fault Refusal :=
  .next (opPutZN .ac ((Operand.addr (eaZpx zp8 s)).val s) s)

/-- LDX immediate, `A2 ii` (R151). -/
def execLdxImm (imm8 : Byte) (s : State) : Host.Outcome State Fault Refusal :=
  .next (opPutZN .x ((Operand.imm imm8).val s) s)

/-- LDX zero-page, `A6 zz` (R151). -/
def execLdxZp (zp8 : Byte) (s : State) : Host.Outcome State Fault Refusal :=
  .next (opPutZN .x ((Operand.addr (eaZp zp8)).val s) s)

/-- LDX zero-page,Y, `B6 zz` (R151): indexed by Y. -/
def execLdxZpy (zp8 : Byte) (s : State) : Host.Outcome State Fault Refusal :=
  .next (opPutZN .x ((Operand.addr (eaZpy zp8 s)).val s) s)

/-- LDY immediate, `A0 ii` (R152). -/
def execLdyImm (imm8 : Byte) (s : State) : Host.Outcome State Fault Refusal :=
  .next (opPutZN .y ((Operand.imm imm8).val s) s)

/-- LDY zero-page, `A4 zz` (R152). -/
def execLdyZp (zp8 : Byte) (s : State) : Host.Outcome State Fault Refusal :=
  .next (opPutZN .y ((Operand.addr (eaZp zp8)).val s) s)

/-- LDY zero-page,X, `B4 zz` (R152): indexed by X. -/
def execLdyZpx (zp8 : Byte) (s : State) : Host.Outcome State Fault Refusal :=
  .next (opPutZN .y ((Operand.addr (eaZpx zp8 s)).val s) s)

/-- STX absolute, `8E ll hh` (R153): no flags. -/
def execStxAbs (abs16 : Word) (s : State) : Host.Outcome State Fault Refusal := .next (s.write (eaAbs abs16) (s.reg .x))

/-- STY absolute, `8C ll hh` (R154): no flags. -/
def execStyAbs (abs16 : Word) (s : State) : Host.Outcome State Fault Refusal := .next (s.write (eaAbs abs16) (s.reg .y))

/-- TAX, `AA` (R155). -/
def execTax (s : State) : Host.Outcome State Fault Refusal := .next (opPutZN .x (s.reg .ac) s)

/-- TAY, `A8` (R156). -/
def execTay (s : State) : Host.Outcome State Fault Refusal := .next (opPutZN .y (s.reg .ac) s)

/-- TXS, `9A` (R157): no flags. -/
def execTxs (s : State) : Host.Outcome State Fault Refusal := .next (s.setReg .sp (s.reg .x))

end Sys2Proof.Machine
end

