-- ==== Sys2Proof/Machine/Logic.lean ====
section
/-! DEFINITION. AND, ORA, CMP (41_logic_compare.md R130 to R132). -/

namespace Sys2Proof.Machine

/-- AND's operation (R130). -/
def opAnd (op : Operand) (s : State) : State :=
  let r := s.ac &&& op.val s
  (s.setReg .ac r).setZN r

/-- ORA's operation (R131). -/
def opOra (op : Operand) (s : State) : State :=
  let r := s.ac ||| op.val s
  (s.setReg .ac r).setZN r

/-- CMP's operation (R132): AC is read, only flags are written. -/
def opCmp (op : Operand) (s : State) : State := s.setCompare s.ac (op.val s)

/-- AND immediate, `29 ii` (R130, R105). -/
def execAndImm (imm8 : Byte) (s : State) : Host.Outcome State Fault Refusal := .next (opAnd (.imm imm8) s)

/-- AND zero-page, `25 zz` (R130, R106). -/
def execAndZp (zp8 : Byte) (s : State) : Host.Outcome State Fault Refusal := .next (opAnd (.addr (eaZp zp8)) s)

/-- AND absolute, `2D ll hh` (R130, R109). -/
def execAndAbs (abs16 : Word) (s : State) : Host.Outcome State Fault Refusal := .next (opAnd (.addr (eaAbs abs16)) s)

/-- ORA immediate, `09 ii` (R131, R105). -/
def execOraImm (imm8 : Byte) (s : State) : Host.Outcome State Fault Refusal := .next (opOra (.imm imm8) s)

/-- ORA zero-page, `05 zz` (R131, R106). -/
def execOraZp (zp8 : Byte) (s : State) : Host.Outcome State Fault Refusal := .next (opOra (.addr (eaZp zp8)) s)

/-- ORA absolute, `0D ll hh` (R131, R109). -/
def execOraAbs (abs16 : Word) (s : State) : Host.Outcome State Fault Refusal := .next (opOra (.addr (eaAbs abs16)) s)

/-- CMP absolute,X, `DD ll hh` (R132, R110). -/
def execCmpAbx (abs16 : Word) (s : State) : Host.Outcome State Fault Refusal := .next (opCmp (.addr (eaAbx abs16 s)) s)

end Sys2Proof.Machine
end

