-- ==== Sys2Proof/Machine/Dispatch.lean ====
section
/-! DEFINITION. `exec`: one arm per instruction, each one direct call of its meaning. It is applied to the state
whose pc already stands past the whole instruction (40_step_and_addressing.md R100). -/

namespace Sys2Proof.Machine

def exec (i : Instr) (s : State) : Host.Outcome State Fault Refusal :=
  match i with
  | .oraZp zp8 => Sys2Proof.Machine.execOraZp zp8 s
  | .oraImm imm8 => Sys2Proof.Machine.execOraImm imm8 s
  | .oraAbs abs16 => Sys2Proof.Machine.execOraAbs abs16 s
  | .jsrAbs abs16 => Sys2Proof.Machine.execJsrAbs abs16 s
  | .andZp zp8 => Sys2Proof.Machine.execAndZp zp8 s
  | .andImm imm8 => Sys2Proof.Machine.execAndImm imm8 s
  | .andAbs abs16 => Sys2Proof.Machine.execAndAbs abs16 s
  | .jmpAbs abs16 => Sys2Proof.Machine.execJmpAbs abs16 s
  | .rts => Sys2Proof.Machine.execRts s
  | .sei => Sys2Proof.Machine.execSei s
  | .dey => Sys2Proof.Machine.execDey s
  | .styAbs abs16 => Sys2Proof.Machine.execStyAbs abs16 s
  | .stxAbs abs16 => Sys2Proof.Machine.execStxAbs abs16 s
  | .txs => Sys2Proof.Machine.execTxs s
  | .ldyImm imm8 => Sys2Proof.Machine.execLdyImm imm8 s
  | .ldxImm imm8 => Sys2Proof.Machine.execLdxImm imm8 s
  | .ldyZp zp8 => Sys2Proof.Machine.execLdyZp zp8 s
  | .ldaZp zp8 => Sys2Proof.Machine.execLdaZp zp8 s
  | .ldxZp zp8 => Sys2Proof.Machine.execLdxZp zp8 s
  | .tay => Sys2Proof.Machine.execTay s
  | .ldaImm imm8 => Sys2Proof.Machine.execLdaImm imm8 s
  | .tax => Sys2Proof.Machine.execTax s
  | .ldyZpx zp8 => Sys2Proof.Machine.execLdyZpx zp8 s
  | .ldaZpx zp8 => Sys2Proof.Machine.execLdaZpx zp8 s
  | .ldxZpy zp8 => Sys2Proof.Machine.execLdxZpy zp8 s
  | .iny => Sys2Proof.Machine.execIny s
  | .dex => Sys2Proof.Machine.execDex s
  | .decAbs abs16 => Sys2Proof.Machine.execDecAbs abs16 s
  | .bneRel rel8 => Sys2Proof.Machine.execBneRel rel8 s
  | .cld => Sys2Proof.Machine.execCld s
  | .cmpAbx abs16 => Sys2Proof.Machine.execCmpAbx abs16 s
  | .inx => Sys2Proof.Machine.execInx s
  | .nop => Sys2Proof.Machine.execNop s
  | .incAbs abs16 => Sys2Proof.Machine.execIncAbs abs16 s
  | .beqRel rel8 => Sys2Proof.Machine.execBeqRel rel8 s

end Sys2Proof.Machine
end

