-- ==== Sys2Proof/Machine/Fetch.lean ====
section
/-! DEFINITION. Fetch and decode: the part of `step` (40_step_and_addressing.md R100) before the operation runs. -/

namespace Sys2Proof.Machine

/-- The instruction at pc and the state with pc past the whole of it, or the unmapped-opcode fault (R100). The
opcode byte alone decides (R82): on a fault no operand byte has been fetched and pc has advanced by 1 (R102). -/
def fetchDecode (s : State) : Except Fault (Instr × State) :=
  let f := s.fetch
  match lookup f.1 with
  | none => .error (raiseUnmappedOpcode f.1 s.pc f.2)
  | some e =>
    let r := State.fetchBytes e.format.operandCount f.2
    .ok (assemble e r.1, r.2)

end Sys2Proof.Machine
end

