-- ==== Sys2Proof/Machine/Step.lean ====
section
/-! DEFINITION. `step`, the only transition of the machine (40_step_and_addressing.md R100), and `withFetchWord`. -/

namespace Sys2Proof.Machine

/-- One atomic fetch-decode-execute transition (R100, R113): `Next(s')` or the unmapped-opcode fault
(00_scope.md R10). -/
def step (s : State) : Host.Outcome State Fault Refusal :=
  match fetchDecode s with
  | .error f => .fault f
  | .ok (i, s') => exec i s'

/-- `s` with an opcode-table word stored at pc, where `step` fetches: the host's load of a program
(20_memory.md R66, 70_reset_and_hazards.md R201; log 16). -/
def State.withFetchWord (s : State) (nbits w : Nat) : State := s.load s.pc (tableBytes nbits w)

end Sys2Proof.Machine
end

