-- ==== Sys2Proof/Machine/HostPort.lean ====
section
/-! DEFINITION. The host's side of the block (60_exceptions.md R189, 10_state.md R34): what the host may do between
steps. `step` itself is in Step.lean; inspecting is reading a field, `State.flag` or `State.read`, and changes
nothing. -/

namespace Sys2Proof.Machine

/-- One host interaction that changes state (R189). Values are typed, so no wider value can be written (R34). -/
inductive HostAction where
  /-- `Cpu::new()`: the reset state (R33, R200). -/
  | construct
  | writePc (v : Word)
  | writeReg (r : Reg) (v : Byte)
  /-- `load(byte)`: all eight flags at once (R28). -/
  | writeSr (v : Byte)
  /-- One named flag (R28). -/
  | writeFlag (f : Flag) (v : Bool)
  /-- One byte of memory (20_memory.md R66). -/
  | writeMem (a : Word) (v : Byte)
deriving DecidableEq, Repr

/-- The effect of one host interaction (R189). -/
def HostAction.apply (h : HostAction) (s : State) : State :=
  match h with
  | .construct => State.reset
  | .writePc v => s.setPc v
  | .writeReg r v => s.setReg r v
  | .writeSr v => { s with sr := v }
  | .writeFlag f v => s.setFlag f v
  | .writeMem a v => s.write a v

/-- Host interactions in a row, first to last: how a launch state is built from the reset state (R189, R201). -/
def hostSetup (hs : List HostAction) (s : State) : State := hs.foldl (fun t h => h.apply t) s

end Sys2Proof.Machine
end

