-- ==== Sys2Proof/Safety.lean ====
section
/-! DEFINITION. What counts as a safe run: a run is steps from a launch state, a fault ends it and is a failure, never
an end (60_exceptions.md R185, 70_reset_and_hazards.md R204). -/

namespace Sys2Proof.Machine

/-- A run of `n` steps from `s` meets no fault. -/
def SafeFor (n : Nat) (s : State) : Prop := ∃ t, Sys2Proof.core.run n s = .next t

/-- The byte at pc is one of the mapped opcodes: the next step does not fault (30_encoding.md R85). -/
def State.opcodeMapped (s : State) : Bool := (lookup (s.read s.pc)).isSome

/-- A run that ends when `endOfRun` first holds, the parameter `END_OF_RUN` (00_scope.md R5, R204), within `n` steps:
`none` if it has not ended by then. A fault is kept as the outcome and is never an end. -/
def runUntil (endOfRun : State → Bool) : Nat → State → Option (Host.Outcome State Fault Refusal)
  | 0, s => if endOfRun s then some (.next s) else none
  | n + 1, s =>
    if endOfRun s then some (.next s)
    else match step s with
      | .next t => runUntil endOfRun n t
      | .fault f => some (.fault f)
      | .refused r => some (.refused r)

end Sys2Proof.Machine
end

