-- ==== Sys2Proof/Certificates/Slice0/Obligations.lean ====
section
/-! DEFINITION. The statements for the provers. A statement about `exec i s` is about the operation of instruction `i`
in a state `s` whose pc already stands past the whole instruction (40_step_and_addressing.md R100);
`Obligations.StepRunsDecodedInstruction` carries it to `step`. -/

namespace Sys2Proof.Claims

open Sys2Proof.Machine

/-- Every flag of SR but the named ones is unchanged; the eight flags are all of SR. -/
def FlagsKept (but : List Flag) (s t : State) : Prop := ∀ f, f ∉ but → t.flag f = s.flag f

/-- Every one of AC, X, Y, SP but the named ones is unchanged. -/
def RegsKept (but : List Reg) (s t : State) : Prop := ∀ r, r ∉ but → t.reg r = s.reg r

/-- Every byte of memory outside the named addresses reads as before. -/
def MemKept (but : List Word) (s t : State) : Prop := ∀ a, a ∉ but → t.read a = s.read a

/-- Z and N are as 40_step_and_addressing.md R115 computes them from `v`; the other six flags are unchanged. -/
def ZNSet (v : Byte) (s t : State) : Prop :=
  (t.flag .z = true ↔ v = 0x00) ∧ (t.flag .n = true ↔ 0x80 ≤ v.toNat) ∧ FlagsKept [.z, .n] s t

/-- Register `r` took the value `v`, Z and N were set on it, and nothing else changed. -/
def RegResult (r : Reg) (v : Byte) (s t : State) : Prop :=
  t.reg r = v ∧ ZNSet v s t ∧ RegsKept [r] s t ∧ t.pc = s.pc ∧ MemKept [] s t

/-- The byte at `a` took the value `v`, Z and N were set on it, and nothing else changed. -/
def MemResult (a : Word) (v : Byte) (s t : State) : Prop :=
  t.read a = v ∧ ZNSet v s t ∧ RegsKept [] s t ∧ t.pc = s.pc ∧ MemKept [a] s t

/-- Nothing but pc differs. -/
def OnlyPcMoved (s t : State) : Prop := RegsKept [] s t ∧ FlagsKept [] s t ∧ MemKept [] s t

/-- The three bytes at pc, in ascending address order. -/
def codeAt (s : State) : List Byte := [s.read s.pc, s.read (s.pc + 1), s.read (s.pc + 2)]

/-- The 16-bit operand of the instruction at pc, low byte first. -/
def operand16At (s : State) : Word := joinBytes (s.read (s.pc + 2)) (s.read (s.pc + 1))

/-- The first column of 30_encoding.md R84 (log 1 to 5 and 15: the spec's decisions D1 to D5, and JSR's mode). -/
def mappedBytes : List Byte :=
  [0x05, 0x09, 0x0D, 0x20, 0x25, 0x29, 0x2D, 0x4C, 0x60, 0x78, 0x88, 0x8C, 0x8E, 0x9A, 0xA0, 0xA2, 0xA4, 0xA5,
   0xA6, 0xA8, 0xA9, 0xAA, 0xB4, 0xB5, 0xB6, 0xC8, 0xCA, 0xCE, 0xD0, 0xD8, 0xDD, 0xE8, 0xEA, 0xEE, 0xF0]

/-- The byte at pc is no opcode, and `f` is the fault that reports it, with the state one past it (60_exceptions.md R180,
R181). -/
def FaultAtPc (t : State) (f : Fault) : Prop :=
  t.read t.pc ∉ mappedBytes ∧ f = .unmappedOpcode (t.read t.pc) t.pc { t with pc := t.pc + 1 }

/-- A relative target in numbers: `d` is a displacement from 0 to 127, or 256 minus one from 1 to 128 backward
(40_step_and_addressing.md R111). -/
def branchTarget (pc d : Nat) : Nat := if d ≤ 0x7F then (pc + d) % 65536 else (pc + 65536 - (256 - d)) % 65536

end Sys2Proof.Claims

open Sys2Proof Sys2Proof.Machine Sys2Proof.Claims

/-! ### Reset and state -/

/-- 10_state.md R33, the whole table with its notes. That SR is 0x00 in bit 5 too, and so `u` clear, is the spec's
decision D6 (log 6); that the first step faults rests on 0x00 being an unmapped byte (log 1) and on nothing being loaded
(log 16). -/
def Obligations.ResetStateIsZero : Prop :=
  State.reset.pc = 0x0000 ∧ State.reset.sp = 0x00 ∧ State.reset.ac = 0x00 ∧ State.reset.x = 0x00 ∧
    State.reset.y = 0x00 ∧ State.reset.sr = 0x00 ∧ (∀ f, State.reset.flag f = false) ∧
    (∀ a, State.reset.read a = 0x00) ∧
    (∀ b, (State.reset.push b).read 0x0100 = b ∧ (State.reset.push b).sp = 0xFF) ∧
    ∃ f, step State.reset = .fault f

/-- Memory after reset is in the model's canonical form (log 17, a form of the model's own). -/
def Obligations.ResetMemoryIsCanonical : Prop := State.reset.wf = true

/-- 10_state.md R28: reading a flag is a projection of SR, writing one an injection of exactly one bit, and the flags
and the byte are one storage. -/
def Obligations.FlagsAreBitsOfStatusByte : Prop :=
  (∀ s : State, s.flag .n = s.sr.getLsbD 7 ∧ s.flag .v = s.sr.getLsbD 6 ∧ s.flag .u = s.sr.getLsbD 5 ∧
    s.flag .b = s.sr.getLsbD 4 ∧ s.flag .d = s.sr.getLsbD 3 ∧ s.flag .i = s.sr.getLsbD 2 ∧
    s.flag .z = s.sr.getLsbD 1 ∧ s.flag .c = s.sr.getLsbD 0) ∧
  (∀ (s : State) (f : Flag) (v : Bool), (s.setFlag f v).flag f = v ∧ FlagsKept [f] s (s.setFlag f v) ∧
    RegsKept [] s (s.setFlag f v) ∧ (s.setFlag f v).pc = s.pc ∧ MemKept [] s (s.setFlag f v)) ∧
  (∀ (s : State) (b : Byte), ((HostAction.writeSr b).apply s).sr = b)

/-! ### Memory and stack -/

/-- 20_memory.md R51 and R52: a read returns the byte last written, by the Cpu or by the host, or the reset value 0x00; a
write changes that byte and nothing else. -/
def Obligations.ReadReturnsLastWrite : Prop :=
  (∀ a, State.reset.read a = 0x00) ∧
  (∀ (s : State) (a : Word) (v : Byte), (HostAction.writeMem a v).apply s = s.write a v) ∧
  ∀ (s : State) (a : Word) (v : Byte), (s.write a v).read a = v ∧ MemKept [a] s (s.write a v) ∧
    RegsKept [] s (s.write a v) ∧ (s.write a v).pc = s.pc ∧ (s.write a v).sr = s.sr

/-- 20_memory.md R63: `Push` stores at 0x0100 + SP, then decrements SP modulo 256. -/
def Obligations.PushStoresThenDecrements : Prop :=
  (∀ (s : State) (b : Byte), ∃ a : Word, a.toNat = 0x0100 + s.sp.toNat ∧ (s.push b).read a = b ∧
    MemKept [a] s (s.push b) ∧ (s.push b).sp.toNat = (s.sp.toNat + 255) % 256 ∧
    RegsKept [.sp] s (s.push b) ∧ (s.push b).pc = s.pc ∧ FlagsKept [] s (s.push b)) ∧
  ∀ (s : State) (b : Byte), s.sp = 0x00 → (s.push b).read 0x0100 = b ∧ (s.push b).sp = 0xFF

/-- 20_memory.md R64 (the spec's own derivation, log 14): `Pop` increments SP modulo 256, then reads at 0x0100 + SP and
writes nothing. -/
def Obligations.PopIncrementsThenReads : Prop :=
  ∀ s : State, ∃ a : Word, a.toNat = 0x0100 + (s.sp.toNat + 1) % 256 ∧ s.pop.1 = s.read a ∧
    s.pop.2.sp.toNat = (s.sp.toNat + 1) % 256 ∧ RegsKept [.sp] s s.pop.2 ∧ s.pop.2.pc = s.pc ∧
    FlagsKept [] s s.pop.2 ∧ MemKept [] s s.pop.2

/-! ### Fetching, decoding, operand forms -/

/-- 40_step_and_addressing.md R101: `Fetch` gives the byte at pc and advances pc by 1 modulo 65536; `n` fetches in a row
read ascending addresses with the same wrap. -/
def Obligations.FetchReadsAscendingBytes : Prop :=
  (∀ s : State, s.fetch.1 = s.read s.pc ∧ s.fetch.2.pc.toNat = (s.pc.toNat + 1) % 65536 ∧
    OnlyPcMoved s s.fetch.2) ∧
  ∀ (n : Nat) (s : State), (State.fetchBytes n s).1.length = n ∧
    (∀ k < n, (State.fetchBytes n s).1[k]? = some (s.read (s.pc + BitVec.ofNat 16 k))) ∧
    (State.fetchBytes n s).2 = { s with pc := s.pc + BitVec.ofNat 16 n }

/-- The effective addresses of 40_step_and_addressing.md R106 to R111 in numbers. -/
def Obligations.EffectiveAddressesWrap : Prop :=
  ∀ (s : State) (b : Byte) (a : Word),
    (eaZp b).toNat = b.toNat ∧ (eaZpx b s).toNat = (b.toNat + s.x.toNat) % 256 ∧
    (eaZpy b s).toNat = (b.toNat + s.y.toNat) % 256 ∧ eaAbs a = a ∧
    (eaAbx a s).toNat = (a.toNat + s.x.toNat) % 65536 ∧
    (eaRel b s).toNat = branchTarget s.pc.toNat b.toNat

/-- 40_step_and_addressing.md R115, `SetZN`. -/
def Obligations.SetZNComputesFlags : Prop :=
  ∀ (s : State) (v : Byte), ZNSet v s (s.setZN v) ∧ (s.setZN v).flag .n = v.getLsbD 7 ∧
    ¬((s.setZN v).flag .z = true ∧ (s.setZN v).flag .n = true) ∧
    RegsKept [] s (s.setZN v) ∧ (s.setZN v).pc = s.pc ∧ MemKept [] s (s.setZN v)

/-- Every row of 30_encoding.md R84 with the operand bytes of R81. The bytes but 0x60 are the spec's decision D1, the
modes of ORA and CMP, the index pairing and the one-byte format its decisions D2 to D5 (log 1 to 5), JSR's mode its
inference (log 15). -/
def Obligations.EncodingFollowsOpcodeMap : Prop :=
  (∀ b : Byte, encode (.oraZp b) = [0x05, b] ∧ encode (.oraImm b) = [0x09, b] ∧ encode (.andZp b) = [0x25, b] ∧
    encode (.andImm b) = [0x29, b] ∧ encode (.ldyImm b) = [0xA0, b] ∧ encode (.ldxImm b) = [0xA2, b] ∧
    encode (.ldyZp b) = [0xA4, b] ∧ encode (.ldaZp b) = [0xA5, b] ∧ encode (.ldxZp b) = [0xA6, b] ∧
    encode (.ldaImm b) = [0xA9, b] ∧ encode (.ldyZpx b) = [0xB4, b] ∧ encode (.ldaZpx b) = [0xB5, b] ∧
    encode (.ldxZpy b) = [0xB6, b] ∧ encode (.bneRel b) = [0xD0, b] ∧ encode (.beqRel b) = [0xF0, b]) ∧
  (∀ hi lo : Byte, encode (.oraAbs (joinBytes hi lo)) = [0x0D, lo, hi] ∧
    encode (.jsrAbs (joinBytes hi lo)) = [0x20, lo, hi] ∧ encode (.andAbs (joinBytes hi lo)) = [0x2D, lo, hi] ∧
    encode (.jmpAbs (joinBytes hi lo)) = [0x4C, lo, hi] ∧ encode (.styAbs (joinBytes hi lo)) = [0x8C, lo, hi] ∧
    encode (.stxAbs (joinBytes hi lo)) = [0x8E, lo, hi] ∧ encode (.decAbs (joinBytes hi lo)) = [0xCE, lo, hi] ∧
    encode (.cmpAbx (joinBytes hi lo)) = [0xDD, lo, hi] ∧ encode (.incAbs (joinBytes hi lo)) = [0xEE, lo, hi]) ∧
  encode .rts = [0x60] ∧ encode .sei = [0x78] ∧ encode .dey = [0x88] ∧ encode .txs = [0x9A] ∧
    encode .tay = [0xA8] ∧ encode .tax = [0xAA] ∧ encode .iny = [0xC8] ∧ encode .dex = [0xCA] ∧
    encode .cld = [0xD8] ∧ encode .inx = [0xE8] ∧ encode .nop = [0xEA]

/-- Words written out from the spec decode to the instructions they stand for (30_encoding.md R84, R87, and the source's
own scenarios 1 to 6), two or more per family (files 41 to 45 of spec/). The bytes but 0x60 rest on log 1, the form of
CMP on log 3, LDX by Y on log 4, the one-byte words on log 5, JSR's mode on log 15. -/
def Obligations.SampleWordsDecode : Prop :=
  decode [0x29, 0xF0] = .ok (.andImm 0xF0, []) ∧ decode [0xDD, 0x34, 0x12] = .ok (.cmpAbx 0x1234, []) ∧
    decode [0xCE, 0xAD, 0xDE] = .ok (.decAbs 0xDEAD, []) ∧ decode [0xE8] = .ok (.inx, []) ∧
    decode [0xB6, 0x10] = .ok (.ldxZpy 0x10, []) ∧ decode [0xA9, 0x01] = .ok (.ldaImm 0x01, []) ∧
    decode [0x4C, 0x34, 0x12] = .ok (.jmpAbs 0x1234, []) ∧ decode [0x20, 0xAD, 0xDE] = .ok (.jsrAbs 0xDEAD, []) ∧
    decode [0x60] = .ok (.rts, []) ∧ decode [0xF0, 0x04] = .ok (.beqRel 0x04, []) ∧
    decode [0x78] = .ok (.sei, []) ∧ decode [0xD8] = .ok (.cld, [])

/-- Decoding an encoded instruction gives it back, whatever follows it in memory. -/
def Obligations.DecodeEncodeRoundTrip : Prop :=
  ∀ (i : Instr) (rest : List Byte), i.wf = true ∧ decode (encode i ++ rest) = .ok (i, rest)

/-- The other direction: bytes that decode are the encoding of what they decode to, so no two words mean the same. -/
def Obligations.DecodedBytesAreTheEncoding : Prop :=
  ∀ (bs rest : List Byte) (i : Instr), decode bs = .ok (i, rest) → bs = encode i ++ rest

/-- 30_encoding.md R82, R86: the opcode byte alone fixes the entry and so the length; no operand byte takes part. -/
def Obligations.OpcodeByteAloneSelects : Prop :=
  ∀ (b : Byte) (o p ro rp : List Byte) (i j : Instr),
    decode (b :: o) = .ok (i, ro) → decode (b :: p) = .ok (j, rp) →
      i.entry = j.entry ∧ i.length = j.length ∧ (b :: o).length = i.length + ro.length

/-- 30_encoding.md R85: the bytes outside R84's table (log 1 to 5), and only they, are rejected by name whatever follows
them. -/
def Obligations.OtherBytesAreUnmapped : Prop :=
  mappedBytes.length = 35 ∧ mappedBytes.Nodup ∧
  ∀ (b : Byte) (rest : List Byte), decode (b :: rest) = .error (.unmappedOpcode b) ↔ b ∉ mappedBytes

/-! ### The step -/

/-- 40_step_and_addressing.md R100: bytes at pc that decode to `i` make the step `exec i` with pc past the whole of `i`;
bytes that have no entry make it the fault. What the fault carries is not R100's: its payload is the spec's decision D9
(log 9), and that it holds the observed state, pc one on, the model's choice (log 8). -/
def Obligations.StepRunsDecodedInstruction : Prop :=
  (∀ (s : State) (i : Instr) (rest : List Byte), decode (codeAt s) = .ok (i, rest) →
    step s = exec i { s with pc := s.pc + BitVec.ofNat 16 i.length }) ∧
  ∀ (s : State) (b : Byte), decode (codeAt s) = .error (.unmappedOpcode b) →
    b = s.read s.pc ∧ step s = .fault (.unmappedOpcode b s.pc { s with pc := s.pc + 1 })

/-- 40_step_and_addressing.md R102 and 60_exceptions.md R181: on an opcode byte without an entry the step reports it
with its address, and only pc has moved, by 1. The payload is the spec's decision D9 (log 9); that the fault carries the
observed state is the model's choice (log 8). -/
def Obligations.UnmappedOpcodeFaults : Prop :=
  ∀ s : State, lookup (s.read s.pc) = none →
    ∃ t, step s = .fault (.unmappedOpcode (s.read s.pc) s.pc t) ∧ t.pc = s.pc + 1 ∧ t.sp = s.sp ∧ t.ac = s.ac ∧
      t.x = s.x ∧ t.y = s.y ∧ t.sr = s.sr ∧ MemKept [] s t

/-- 00_scope.md R10 and 60_exceptions.md R183: a step completes exactly on the 35 mapped bytes, faults on every other
byte and is never refused. Which bytes are mapped rests on log 1 to 5, the payload of the fault on log 9, the observed
state it carries, pc one on, on log 8. -/
def Obligations.StepCompletesExactlyOnMapped : Prop :=
  ∀ s : State,
    (s.read s.pc ∈ mappedBytes ∧ ∃ t, step s = .next t) ∨
    (s.read s.pc ∉ mappedBytes ∧
      step s = .fault (.unmappedOpcode (s.read s.pc) s.pc { s with pc := s.pc + 1 }))

/-- 00_scope.md R10: no instruction rule raises anything, so every operation answers a next state in every state. -/
def Obligations.EveryInstructionCompletes : Prop := ∀ (i : Instr) (s : State), ∃ t, exec i s = .next t

/-! ### Instructions: result, frame and completion -/

/-- AND (41_logic_compare.md R130) in its three forms. -/
def Obligations.AndResult : Prop :=
  ∀ s : State,
    (∀ v, ∃ t, exec (.andImm v) s = .next t ∧ RegResult .ac (s.ac &&& v) s t) ∧
    (∀ z, ∃ t, exec (.andZp z) s = .next t ∧ RegResult .ac (s.ac &&& s.read (joinBytes 0x00 z)) s t) ∧
    (∀ a, ∃ t, exec (.andAbs a) s = .next t ∧ RegResult .ac (s.ac &&& s.read a) s t)

/-- ORA (41_logic_compare.md R131); that it has these three forms is the spec's decision D2 (log 2). -/
def Obligations.OraResult : Prop :=
  ∀ s : State,
    (∀ v, ∃ t, exec (.oraImm v) s = .next t ∧ RegResult .ac (s.ac ||| v) s t) ∧
    (∀ z, ∃ t, exec (.oraZp z) s = .next t ∧ RegResult .ac (s.ac ||| s.read (joinBytes 0x00 z)) s t) ∧
    (∀ a, ∃ t, exec (.oraAbs a) s = .next t ∧ RegResult .ac (s.ac ||| s.read a) s t)

/-- CMP (41_logic_compare.md R132): C is the unsigned comparison, Z equality, N bit 7 of the difference modulo 256. That
absolute,X is its one form is the spec's decision D3 (log 3). -/
def Obligations.CmpResult : Prop :=
  ∀ (s : State) (a : Word), ∃ (m : Byte) (t : State),
    m = s.read (a + joinBytes 0x00 s.x) ∧ exec (.cmpAbx a) s = .next t ∧
    (t.flag .c = true ↔ m.toNat ≤ s.ac.toNat) ∧ (t.flag .z = true ↔ s.ac = m) ∧
    (t.flag .n = true ↔ 0x80 ≤ (s.ac.toNat + 256 - m.toNat) % 256) ∧ FlagsKept [.c, .z, .n] s t ∧
    RegsKept [] s t ∧ t.pc = s.pc ∧ MemKept [] s t

/-- INC and DEC (42_incdec.md R140, R141): the stored address is the effective address `eaAbs` of the operand. -/
def Obligations.MemoryIncDecResult : Prop :=
  ∀ (s : State) (a : Word),
    (∃ t, exec (.incAbs a) s = .next t ∧
      MemResult (eaAbs a) (BitVec.ofNat 8 ((s.read (eaAbs a)).toNat + 1)) s t) ∧
    (∃ t, exec (.decAbs a) s = .next t ∧
      MemResult (eaAbs a) (BitVec.ofNat 8 ((s.read (eaAbs a)).toNat + 255)) s t)

/-- INX, DEX, INY, DEY (42_incdec.md R142 to R145). -/
def Obligations.IndexIncDecResult : Prop :=
  ∀ s : State,
    (∃ t, exec .inx s = .next t ∧ RegResult .x (BitVec.ofNat 8 (s.x.toNat + 1)) s t) ∧
    (∃ t, exec .dex s = .next t ∧ RegResult .x (BitVec.ofNat 8 (s.x.toNat + 255)) s t) ∧
    (∃ t, exec .iny s = .next t ∧ RegResult .y (BitVec.ofNat 8 (s.y.toNat + 1)) s t) ∧
    (∃ t, exec .dey s = .next t ∧ RegResult .y (BitVec.ofNat 8 (s.y.toNat + 255)) s t)

/-- LDA (43_load_store_transfer.md R150) in its three forms; the indexed form by X rests on log 4. -/
def Obligations.LdaResult : Prop :=
  ∀ s : State,
    (∀ v, ∃ t, exec (.ldaImm v) s = .next t ∧ RegResult .ac v s t) ∧
    (∀ z, ∃ t, exec (.ldaZp z) s = .next t ∧ RegResult .ac (s.read (joinBytes 0x00 z)) s t) ∧
    (∀ z, ∃ t, exec (.ldaZpx z) s = .next t ∧ RegResult .ac (s.read (joinBytes 0x00 (z + s.x))) s t)

/-- LDX (43_load_store_transfer.md R151) in its three forms; the indexed form by Y rests on log 4. -/
def Obligations.LdxResult : Prop :=
  ∀ s : State,
    (∀ v, ∃ t, exec (.ldxImm v) s = .next t ∧ RegResult .x v s t) ∧
    (∀ z, ∃ t, exec (.ldxZp z) s = .next t ∧ RegResult .x (s.read (joinBytes 0x00 z)) s t) ∧
    (∀ z, ∃ t, exec (.ldxZpy z) s = .next t ∧ RegResult .x (s.read (joinBytes 0x00 (z + s.y))) s t)

/-- LDY (43_load_store_transfer.md R152) in its three forms; the indexed form by X rests on log 4. -/
def Obligations.LdyResult : Prop :=
  ∀ s : State,
    (∀ v, ∃ t, exec (.ldyImm v) s = .next t ∧ RegResult .y v s t) ∧
    (∀ z, ∃ t, exec (.ldyZp z) s = .next t ∧ RegResult .y (s.read (joinBytes 0x00 z)) s t) ∧
    (∀ z, ∃ t, exec (.ldyZpx z) s = .next t ∧ RegResult .y (s.read (joinBytes 0x00 (z + s.x))) s t)

/-- STX and STY (43_load_store_transfer.md R153, R154): one byte at the effective address `eaAbs`, no flags. -/
def Obligations.StoreResult : Prop :=
  ∀ (s : State) (a : Word),
    (∃ t, exec (.stxAbs a) s = .next t ∧ t.read (eaAbs a) = s.x ∧ MemKept [eaAbs a] s t ∧ RegsKept [] s t ∧
      FlagsKept [] s t ∧ t.pc = s.pc) ∧
    (∃ t, exec (.styAbs a) s = .next t ∧ t.read (eaAbs a) = s.y ∧ MemKept [eaAbs a] s t ∧ RegsKept [] s t ∧
      FlagsKept [] s t ∧ t.pc = s.pc)

/-- TAX, TAY and TXS (43_load_store_transfer.md R155 to R157): TAX and TAY set Z and N, TXS sets no flag. -/
def Obligations.TransferResult : Prop :=
  ∀ s : State,
    (∃ t, exec .tax s = .next t ∧ RegResult .x s.ac s t) ∧
    (∃ t, exec .tay s = .next t ∧ RegResult .y s.ac s t) ∧
    (∃ t, exec .txs s = .next t ∧ t.sp = s.x ∧ RegsKept [.sp] s t ∧ FlagsKept [] s t ∧ t.pc = s.pc ∧ MemKept [] s t)

/-- JMP (44_control_transfer.md R160). -/
def Obligations.JmpResult : Prop :=
  ∀ (s : State) (a : Word), ∃ t, exec (.jmpAbs a) s = .next t ∧ t.pc = a ∧ OnlyPcMoved s t

/-- JSR (44_control_transfer.md R161): the address of the call's last byte is stacked, high byte first at
`stackAddr SP`, low byte at `stackAddr (SP - 1)`. That JSR's mode is absolute is the spec's inference (log 15). -/
def Obligations.JsrResult : Prop :=
  ∀ (s : State) (a : Word), ∃ t, exec (.jsrAbs a) s = .next t ∧ t.pc = a ∧
    joinBytes (t.read (stackAddr s.sp)) (t.read (stackAddr (s.sp - 1))) = s.pc - 1 ∧ t.sp = s.sp - 2 ∧
    RegsKept [.sp] s t ∧ FlagsKept [] s t ∧ MemKept [stackAddr s.sp, stackAddr (s.sp - 1)] s t

/-- RTS (44_control_transfer.md R162): the low byte from `stackAddr (SP + 1)`, the high byte from `stackAddr (SP + 2)`,
and 1 added; how a byte is popped is the spec's derivation (log 14). -/
def Obligations.RtsResult : Prop :=
  ∀ s : State, ∃ t, exec .rts s = .next t ∧
    t.pc = joinBytes (s.read (stackAddr (s.sp + 2))) (s.read (stackAddr (s.sp + 1))) + 1 ∧ t.sp = s.sp + 2 ∧
    RegsKept [.sp] s t ∧ FlagsKept [] s t ∧ MemKept [] s t

/-- BEQ and BNE (44_control_transfer.md R163, R164): BEQ goes to the target exactly when Z is set, BNE exactly when it is
clear, and each stays past its two bytes otherwise. -/
def Obligations.BranchResult : Prop :=
  ∀ (s : State) (d : Byte),
    (∃ t, exec (.beqRel d) s = .next t ∧ OnlyPcMoved s t ∧
      t.pc.toNat = if s.sr.getLsbD 1 then branchTarget s.pc.toNat d.toNat else s.pc.toNat) ∧
    (∃ t, exec (.bneRel d) s = .next t ∧ OnlyPcMoved s t ∧
      t.pc.toNat = if s.sr.getLsbD 1 then s.pc.toNat else branchTarget s.pc.toNat d.toNat)

/-- NOP, CLD, SEI (45_flag_nop.md R170 to R172). -/
def Obligations.FlagNopResult : Prop :=
  ∀ s : State,
    (∃ t, exec .nop s = .next t ∧ t.pc = s.pc ∧ OnlyPcMoved s t) ∧
    (∃ t, exec .cld s = .next t ∧ t.sr = s.sr &&& 0xF7 ∧ FlagsKept [.d] s t ∧ RegsKept [] s t ∧ t.pc = s.pc ∧
      MemKept [] s t) ∧
    (∃ t, exec .sei s = .next t ∧ t.sr = s.sr ||| 0x04 ∧ FlagsKept [.i] s t ∧ RegsKept [] s t ∧ t.pc = s.pc ∧
      MemKept [] s t)

/-! ### Whole-machine rules -/

/-- 10_state.md R21: how far a step moves pc, by opcode byte (log 1); the operand of JMP and JSR is the bytes as they were
when fetched, even where a push lands on them (20_memory.md R65). The one-byte clause and RTS's length rest on log 5, the
forms of ORA, CMP and the loads on log 2 to 4, the RTS clause on the pop derivation (log 14), JSR's mode on log 15. -/
def Obligations.StepAdvancesPc : Prop :=
  ∀ s t : State, step s = .next t →
    (s.read s.pc ∈ [(0x78 : Byte), 0x88, 0x9A, 0xA8, 0xAA, 0xC8, 0xCA, 0xD8, 0xE8, 0xEA] → t.pc = s.pc + 1) ∧
    (s.read s.pc ∈ [(0x05 : Byte), 0x09, 0x25, 0x29, 0xA0, 0xA2, 0xA4, 0xA5, 0xA6, 0xA9, 0xB4, 0xB5, 0xB6] →
      t.pc = s.pc + 2) ∧
    (s.read s.pc ∈ [(0x0D : Byte), 0x2D, 0x8C, 0x8E, 0xCE, 0xDD, 0xEE] → t.pc = s.pc + 3) ∧
    (s.read s.pc ∈ [(0x4C : Byte), 0x20] → t.pc = operand16At s) ∧
    (s.read s.pc = 0x60 →
      t.pc = joinBytes (s.read (stackAddr (s.sp + 2))) (s.read (stackAddr (s.sp + 1))) + 1) ∧
    (s.read s.pc = 0xF0 → t.pc.toNat = if s.flag .z then
      branchTarget (s.pc + 2).toNat (s.read (s.pc + 1)).toNat else (s.pc + 2).toNat) ∧
    (s.read s.pc = 0xD0 → t.pc.toNat = if s.flag .z then
      (s.pc + 2).toNat else branchTarget (s.pc + 2).toNat (s.read (s.pc + 1)).toNat)

/-- 10_state.md R27, its "written by" column, by opcode byte (log 1): V, U and B never change, D can only be cleared and
by CLD alone, I only set and by SEI alone, C only by CMP, and the eleven instructions that write neither Z nor N keep
them. That CMP's only byte is 0xDD is the spec's decision D3 (log 3), and that U is storage no instruction writes its
decision D6 (log 6). -/
def Obligations.StepFlagWriters : Prop :=
  ∀ s t : State, step s = .next t →
    t.flag .v = s.flag .v ∧ t.flag .u = s.flag .u ∧ t.flag .b = s.flag .b ∧
    (t.flag .d = true → s.flag .d = true) ∧ (s.flag .i = true → t.flag .i = true) ∧
    (s.read s.pc ≠ 0xD8 → t.flag .d = s.flag .d) ∧ (s.read s.pc ≠ 0x78 → t.flag .i = s.flag .i) ∧
    (s.read s.pc ≠ 0xDD → t.flag .c = s.flag .c) ∧
    (s.read s.pc ∈ [(0x8E : Byte), 0x8C, 0x9A, 0x4C, 0x20, 0x60, 0xF0, 0xD0, 0xEA, 0xD8, 0x78] →
      t.flag .z = s.flag .z ∧ t.flag .n = s.flag .n)

/-- 10_state.md R22 to R25: which opcode bytes (log 1; the forms of ORA and the loads, log 2 and 4) can change SP, AC, X
and Y. -/
def Obligations.StepRegisterWriters : Prop :=
  ∀ s t : State, step s = .next t →
    (t.sp ≠ s.sp → s.read s.pc ∈ [(0x9A : Byte), 0x20, 0x60]) ∧
    (t.ac ≠ s.ac → s.read s.pc ∈ [(0x29 : Byte), 0x25, 0x2D, 0x09, 0x05, 0x0D, 0xA9, 0xA5, 0xB5]) ∧
    (t.x ≠ s.x → s.read s.pc ∈ [(0xA2 : Byte), 0xA6, 0xB6, 0xAA, 0xE8, 0xCA]) ∧
    (t.y ≠ s.y → s.read s.pc ∈ [(0xA0 : Byte), 0xA4, 0xB4, 0xA8, 0xC8, 0x88])

/-- 40_step_and_addressing.md R114: only INC, DEC, STX, STY and JSR (by opcode byte, log 1) change memory, and only at
the address their operand or SP names. JSR's mode is log 15. -/
def Obligations.StepMemoryWriters : Prop :=
  ∀ s t : State, step s = .next t → ∀ a : Word, t.read a ≠ s.read a →
    (s.read s.pc ∈ [(0xEE : Byte), 0xCE, 0x8E, 0x8C] ∧ a = eaAbs (operand16At s)) ∨
    (s.read s.pc = 0x20 ∧ (a = stackAddr s.sp ∨ a = stackAddr (s.sp - 1)))

/-- 10_state.md R27, its "read by" column: no flag but Z takes part in what a step does. Two states that differ in SR
only, and agree on Z, take steps whose results differ in SR only, and there each flag is either written with one value in
both or kept in both: a flag a step writes takes its value from no old flag. The fault's payload and the observed state
it carries are log 9 and 8. -/
def Obligations.OnlyZeroFlagIsRead : Prop :=
  ∀ (s : State) (b : Byte), b.getLsbD 1 = s.sr.getLsbD 1 →
    (∃ t t' : State, step s = .next t ∧ step { s with sr := b } = .next t' ∧ t' = { t with sr := t'.sr } ∧
      ∀ f : Flag, t'.flag f = t.flag f ∨ (t.flag f = s.flag f ∧ t'.flag f = getFlag b f)) ∨
    (∃ (o : Byte) (a : Word) (t : State), step s = .fault (.unmappedOpcode o a t) ∧
      step { s with sr := b } = .fault (.unmappedOpcode o a { t with sr := b }))

/-- 44_control_transfer.md R165: a JSR at C to an address that holds RTS (0x60) once the two bytes are pushed, and that
RTS, come back to C + 3 with SP as before, for every C, target and SP; all else is as before but the two stack bytes.
The side condition is the spec's derivation; JSR's byte is log 1, its mode log 15, RTS's length log 5, its pop log 14. -/
def Obligations.CallThenReturn : Prop :=
  ∀ s : State, s.read s.pc = 0x20 →
    ∃ t, step s = .next t ∧ t.pc = operand16At s ∧ t.sp = s.sp - 2 ∧
      (t.read t.pc = 0x60 → ∃ u, step t = .next u ∧ u.pc = s.pc + 3 ∧ u.sp = s.sp ∧ RegsKept [] s u ∧
        FlagsKept [] s u ∧ MemKept [stackAddr s.sp, stackAddr (s.sp - 1)] s u)

/-- The invariant: from every state whose memory is in canonical form (log 17), each step gives one, and so does a fault
in what the host then observes (log 8). -/
def Obligations.StepKeepsCanonicalMemory : Prop :=
  ∀ s : State, s.wf = true →
    (∀ t, step s = .next t → t.wf = true) ∧ (∀ f, step s = .fault f → f.observed.wf = true)

/-- Canonical memories that read alike are the same list (log 17), so equal machine states are equal data. -/
def Obligations.CanonicalStatesAreDetermined : Prop :=
  ∀ s t : State, s.wf = true → t.wf = true → s.pc = t.pc → s.sr = t.sr → RegsKept [] s t → MemKept [] s t → s = t

/-- The interactions are those of 60_exceptions.md R189, with typed values (decision D11, log 11) and construction as the
reset (log 10). Each keeps the canonical form of memory, which is the model's own (log 17), and from the reset state the
host can build every state of that form as a launch state. -/
def Obligations.HostBuildsEveryLaunchState : Prop :=
  (∀ (h : HostAction) (s : State), s.wf = true → (h.apply s).wf = true) ∧
  ∀ s : State, s.wf = true → ∃ hs : List HostAction, hostSetup hs State.reset = s

/-- 60_exceptions.md R180, R185: which fault ends a run, and when. A run of `n` steps ends in a fault exactly when it
completes some `k < n` steps to a state with an unmapped byte at pc, and the fault is that byte's; so a longer run ends in
the same fault. `runUntil` keeps that fault too, exactly when no state up to that one met `endOfRun` (log 12). Which bytes
are unmapped is log 1 to 5, the payload log 9, the observed state and that the run is over log 8. -/
def Obligations.FaultEndsTheRun : Prop :=
  (∀ (n : Nat) (s : State) (f : Fault), Sys2Proof.core.run n s = .fault f ↔
    ∃ k < n, ∃ t, Sys2Proof.core.run k s = .next t ∧ FaultAtPc t f) ∧
  ∀ (endOfRun : State → Bool) (n : Nat) (s : State) (f : Fault), runUntil endOfRun n s = some (.fault f) ↔
    ∃ k < n, (∃ t, Sys2Proof.core.run k s = .next t ∧ FaultAtPc t f) ∧
      ∀ j ≤ k, ∃ u, Sys2Proof.core.run j s = .next u ∧ endOfRun u = false

/-- 70_reset_and_hazards.md R204 (log 12): a run that ended did so by `endOfRun` after some number of completed steps,
with no earlier state an end; a fault is never an end. -/
def Obligations.EndedRunsCompletedTheirSteps : Prop :=
  ∀ (endOfRun : State → Bool) (n : Nat) (s t : State), runUntil endOfRun n s = some (.next t) →
    endOfRun t = true ∧ ∃ k ≤ n, Sys2Proof.core.run k s = .next t ∧
      ∀ j < k, ∃ u, Sys2Proof.core.run j s = .next u ∧ endOfRun u = false

/-- 60_exceptions.md R185 and 70_reset_and_hazards.md R204: a run of `n` steps meets no fault exactly when each of its
first `n` states is reached and has a mapped opcode byte at pc. Which bytes are mapped is log 1 to 5, and that a fault
ends the run log 8. -/
def Obligations.SafeRunsMeetMappedBytesOnly : Prop :=
  ∀ (n : Nat) (s : State), SafeFor n s ↔ ∀ k < n, ∃ t, Sys2Proof.core.run k s = .next t ∧ t.opcodeMapped = true
end

