-- ==== Sys2Proof/Laws/Bytes.lean ====
section
/-! SUPPORT. Byte order and extension (00_scope.md R6, R7): splitting and joining words, and both in numbers. -/

namespace Sys2Proof

theorem joinBytes_toNat (hi lo : Byte) : (joinBytes hi lo).toNat = hi.toNat * 256 + lo.toNat := by
  have := lo.isLt
  rw [joinBytes, BitVec.toNat_append, ← Nat.shiftLeft_add_eq_or_of_lt this, Nat.shiftLeft_eq]

theorem lowByte_toNat (w : Word) : (lowByte w).toNat = w.toNat % 256 := by
  simp [lowByte]

theorem highByte_toNat (w : Word) : (highByte w).toNat = w.toNat / 256 := by
  have := w.isLt
  simp only [highByte, BitVec.extractLsb'_toNat, Nat.shiftRight_eq_div_pow]
  omega

@[simp] theorem lowByte_joinBytes (hi lo : Byte) : lowByte (joinBytes hi lo) = lo := by
  have := lo.isLt
  apply BitVec.eq_of_toNat_eq
  rw [lowByte_toNat, joinBytes_toNat]
  omega

@[simp] theorem highByte_joinBytes (hi lo : Byte) : highByte (joinBytes hi lo) = hi := by
  have := lo.isLt
  apply BitVec.eq_of_toNat_eq
  rw [highByte_toNat, joinBytes_toNat]
  omega

@[simp] theorem joinBytes_high_low (w : Word) : joinBytes (highByte w) (lowByte w) = w := by
  apply BitVec.eq_of_toNat_eq
  rw [joinBytes_toNat, highByte_toNat, lowByte_toNat]
  omega

/-- Bit 7 in numbers (40_step_and_addressing.md R115). -/
theorem bit7_iff (b : Byte) : b[7] = true ↔ 0x80 ≤ b.toNat := by
  revert b
  decide

namespace Machine

theorem zext16_toNat (b : Byte) : (zext16 b).toNat = b.toNat := by
  have := b.isLt
  simp only [zext16, BitVec.toNat_setWidth]
  omega

/-- `sext_16` as rule R7 writes it. -/
theorem sext16_toNat (b : Byte) : (sext16 b).toNat = if b.toNat ≤ 0x7F then b.toNat else 0xFF00 + b.toNat := by
  revert b
  decide

end Machine

end Sys2Proof
end

