-- ==== Sys2Proof/Laws/Decode.lean ====
section
/-! SUPPORT. The dispatch table and the two halves of the coder: lookup and its inverse, operand bytes and assembly. -/

namespace Sys2Proof

/-- No byte and no entry stands twice in the opcode map (30_encoding.md R82, R84). -/
theorem opcodeMap_wf : opcodeMap.wf = true := by decide

theorem lookup_of_opcodeOf {e : Entry} {b : Byte} (h : opcodeOf e = some b) : lookup b = some e := by
  cases e <;> cases h <;> rfl

theorem opcodeOf_of_lookup {b : Byte} {e : Entry} (h : lookup b = some e) : opcodeOf e = some b := by
  have table : ∀ b : Byte, (lookup b).all (fun e => opcodeOf e == some b) = true := by decide
  simpa [h] using table b

theorem operandBytes_length (i : Instr) : i.operandBytes.length = i.entry.format.operandCount := by
  cases i <;> rfl

theorem assemble_operandBytes (i : Instr) : assemble i.entry i.operandBytes = i := by
  cases i <;> simp [assemble, Instr.entry, Instr.operandBytes]

theorem entry_assemble (e : Entry) (bs : List Byte) : (assemble e bs).entry = e := by
  cases e <;> rfl

theorem encode_eq {i : Instr} {b : Byte} (h : opcodeOf i.entry = some b) : encode i = b :: i.operandBytes := by
  simp [encode, h]

end Sys2Proof
end

