-- ==== Sys2Proof/Laws/Memory.lean ====
section
/-! SUPPORT. The laws of the memory array: a read after a write, and that every operation keeps the canonical form. -/

namespace Sys2Proof.Machine

@[simp] theorem Memory.read_nil (a : Nat) : Memory.read [] a = Memory.unlisted := rfl

theorem Memory.read_cons (c : Host.Cell) (m : Memory) (a : Nat) :
    Memory.read (c :: m) a = if c.1 = a then c.2 else Memory.read m a := rfl

theorem Memory.read_insert (m : Memory) (a b : Nat) (v : Byte) :
    Memory.read (Memory.insert a v m) b = if a = b then v else Memory.read m b := by
  induction m with
  | nil => rfl
  | cons c m ih =>
    simp only [Memory.insert]
    split
    · simp only [Memory.read_cons, ih]
      split <;> split <;> first | rfl | omega
    · split <;> simp only [Memory.read_cons]
      split <;> first | rfl | (split <;> first | rfl | omega)

theorem Memory.read_filter (m : Memory) (a b : Nat) :
    Memory.read (m.filter fun c => c.1 ≠ a) b = if a = b then Memory.unlisted else Memory.read m b := by
  induction m with
  | nil => simp
  | cons c m ih =>
    by_cases hc : c.1 = a
    · rw [List.filter_cons_of_neg (by simpa using hc), ih, Memory.read_cons]
      split <;> first | rfl | (split <;> first | rfl | omega)
    · rw [List.filter_cons_of_pos (by simpa using hc), Memory.read_cons, Memory.read_cons, ih]
      split <;> split <;> first | rfl | omega

/-- A read after a write, on every memory, canonical or not. -/
theorem Memory.read_write (m : Memory) (a b : Nat) (v : Byte) :
    (Memory.write m a v).read b = if a = b then v else Memory.read m b := by
  unfold Memory.write
  split
  · next h => rw [Memory.read_filter, h]
  · exact Memory.read_insert m a b v

/-! ### The canonical form -/

theorem Memory.wf_iff (m : Memory) : m.wf = true ↔
    (m.Pairwise fun c d => c.1 < d.1) ∧ ∀ c ∈ m, c.1 < Config.memSize ∧ c.2 ≠ Memory.unlisted := by
  simp [Memory.wf]

@[simp] theorem Memory.wf_nil : Memory.wf [] = true := rfl

theorem Memory.wf_cons (c : Host.Cell) (m : Memory) : Memory.wf (c :: m) = true ↔
    (∀ d ∈ m, c.1 < d.1) ∧ c.1 < Config.memSize ∧ c.2 ≠ Memory.unlisted ∧ Memory.wf m = true := by
  simp only [Memory.wf_iff, List.pairwise_cons, List.forall_mem_cons]
  tauto

theorem Memory.mem_insert {a : Nat} {v : Byte} {m : Memory} {d : Host.Cell} (h : d ∈ Memory.insert a v m) :
    d = (a, v) ∨ d ∈ m := by
  induction m with
  | nil => simpa [Memory.insert] using h
  | cons c m ih =>
    simp only [Memory.insert] at h
    split at h
    · rcases List.mem_cons.1 h with rfl | h
      · simp
      · rcases ih h with h | h <;> simp [h]
    · split at h <;> simp only [List.mem_cons] at h ⊢ <;> tauto

theorem Memory.wf_insert {m : Memory} {a : Nat} {v : Byte} (ha : a < Config.memSize) (hv : v ≠ Memory.unlisted)
    (h : m.wf = true) : (Memory.insert a v m).wf = true := by
  induction m with
  | nil => simp [Memory.insert, Memory.wf_cons, ha, hv]
  | cons c m ih =>
    obtain ⟨hc, hlt, hne, hm⟩ := (Memory.wf_cons c m).1 h
    simp only [Memory.insert]
    split
    · next hca =>
      refine (Memory.wf_cons _ _).2 ⟨fun d hd => ?_, hlt, hne, ih hm⟩
      rcases Memory.mem_insert hd with rfl | hd
      · exact hca
      · exact hc d hd
    · split
      · next heq => exact (Memory.wf_cons _ _).2 ⟨fun d hd => by have := hc d hd; dsimp only; omega, ha, hv, hm⟩
      · refine (Memory.wf_cons _ _).2 ⟨fun d hd => ?_, ha, hv, h⟩
        rcases List.mem_cons.1 hd with rfl | hd
        · dsimp only; omega
        · have := hc d hd
          dsimp only; omega

theorem Memory.wf_filter {m : Memory} (p : Host.Cell → Bool) (h : m.wf = true) :
    Memory.wf (m.filter p) = true := by
  rw [Memory.wf_iff] at h ⊢
  exact ⟨h.1.filter p, fun c hc => h.2 c (List.mem_of_mem_filter hc)⟩

/-- Every write inside the address space keeps the canonical form. -/
theorem Memory.wf_write {m : Memory} {a : Nat} (v : Byte) (ha : a < Config.memSize) (h : m.wf = true) :
    (Memory.write m a v).wf = true := by
  unfold Memory.write
  split
  · exact Memory.wf_filter _ h
  · next hv => exact Memory.wf_insert ha hv h

end Sys2Proof.Machine
end

