-- ==== Sys2Proof/Laws/State.lean ====
section
/-! SUPPORT. One lemma per field per update of the state, and what reading a byte or a flag gives after each update. -/

namespace Sys2Proof.Machine

/-! ### Writing a memory byte -/

@[simp] theorem State.write_pc (s : State) (a : Word) (v : Byte) : (s.write a v).pc = s.pc := rfl
@[simp] theorem State.write_sp (s : State) (a : Word) (v : Byte) : (s.write a v).sp = s.sp := rfl
@[simp] theorem State.write_ac (s : State) (a : Word) (v : Byte) : (s.write a v).ac = s.ac := rfl
@[simp] theorem State.write_x (s : State) (a : Word) (v : Byte) : (s.write a v).x = s.x := rfl
@[simp] theorem State.write_y (s : State) (a : Word) (v : Byte) : (s.write a v).y = s.y := rfl
@[simp] theorem State.write_sr (s : State) (a : Word) (v : Byte) : (s.write a v).sr = s.sr := rfl
@[simp] theorem State.write_mem (s : State) (a : Word) (v : Byte) :
    (s.write a v).mem = s.mem.write a.toNat v := rfl
@[simp] theorem State.write_reg (s : State) (a : Word) (v : Byte) (r : Reg) : (s.write a v).reg r = s.reg r := by
  cases r <;> rfl
@[simp] theorem State.write_flag (s : State) (a : Word) (v : Byte) (f : Flag) : (s.write a v).flag f = s.flag f := rfl

/-- `MemRead` after `MemWrite` (20_memory.md R51, R52). -/
@[simp] theorem State.read_write (s : State) (a b : Word) (v : Byte) :
    (s.write a v).read b = if a = b then v else s.read b := by
  simp only [State.read, State.write, Memory.read_write, BitVec.toNat_inj]

/-! ### Writing a register -/

@[simp] theorem State.setReg_pc (s : State) (r : Reg) (v : Byte) : (s.setReg r v).pc = s.pc := by cases r <;> rfl
@[simp] theorem State.setReg_sr (s : State) (r : Reg) (v : Byte) : (s.setReg r v).sr = s.sr := by cases r <;> rfl
@[simp] theorem State.setReg_mem (s : State) (r : Reg) (v : Byte) : (s.setReg r v).mem = s.mem := by cases r <;> rfl
@[simp] theorem State.setReg_sp (s : State) (r : Reg) (v : Byte) :
    (s.setReg r v).sp = if r = .sp then v else s.sp := by cases r <;> rfl
@[simp] theorem State.setReg_ac (s : State) (r : Reg) (v : Byte) :
    (s.setReg r v).ac = if r = .ac then v else s.ac := by cases r <;> rfl
@[simp] theorem State.setReg_x (s : State) (r : Reg) (v : Byte) :
    (s.setReg r v).x = if r = .x then v else s.x := by cases r <;> rfl
@[simp] theorem State.setReg_y (s : State) (r : Reg) (v : Byte) :
    (s.setReg r v).y = if r = .y then v else s.y := by cases r <;> rfl
@[simp] theorem State.setReg_reg (s : State) (r q : Reg) (v : Byte) :
    (s.setReg r v).reg q = if r = q then v else s.reg q := by cases r <;> cases q <;> rfl
@[simp] theorem State.setReg_read (s : State) (r : Reg) (v : Byte) (a : Word) :
    (s.setReg r v).read a = s.read a := by cases r <;> rfl
@[simp] theorem State.setReg_flag (s : State) (r : Reg) (v : Byte) (f : Flag) :
    (s.setReg r v).flag f = s.flag f := by cases r <;> rfl

/-! ### Writing the program counter -/

@[simp] theorem State.setPc_pc (s : State) (w : Word) : (s.setPc w).pc = w := rfl
@[simp] theorem State.setPc_sp (s : State) (w : Word) : (s.setPc w).sp = s.sp := rfl
@[simp] theorem State.setPc_ac (s : State) (w : Word) : (s.setPc w).ac = s.ac := rfl
@[simp] theorem State.setPc_x (s : State) (w : Word) : (s.setPc w).x = s.x := rfl
@[simp] theorem State.setPc_y (s : State) (w : Word) : (s.setPc w).y = s.y := rfl
@[simp] theorem State.setPc_sr (s : State) (w : Word) : (s.setPc w).sr = s.sr := rfl
@[simp] theorem State.setPc_mem (s : State) (w : Word) : (s.setPc w).mem = s.mem := rfl
@[simp] theorem State.setPc_reg (s : State) (w : Word) (r : Reg) : (s.setPc w).reg r = s.reg r := by cases r <;> rfl
@[simp] theorem State.setPc_read (s : State) (w a : Word) : (s.setPc w).read a = s.read a := rfl
@[simp] theorem State.setPc_flag (s : State) (w : Word) (f : Flag) : (s.setPc w).flag f = s.flag f := rfl
@[simp] theorem State.setPc_setPc (s : State) (w w' : Word) : (s.setPc w).setPc w' = s.setPc w' := rfl

/-! ### Writing a flag -/

@[simp] theorem State.setFlag_pc (s : State) (f : Flag) (v : Bool) : (s.setFlag f v).pc = s.pc := rfl
@[simp] theorem State.setFlag_sp (s : State) (f : Flag) (v : Bool) : (s.setFlag f v).sp = s.sp := rfl
@[simp] theorem State.setFlag_ac (s : State) (f : Flag) (v : Bool) : (s.setFlag f v).ac = s.ac := rfl
@[simp] theorem State.setFlag_x (s : State) (f : Flag) (v : Bool) : (s.setFlag f v).x = s.x := rfl
@[simp] theorem State.setFlag_y (s : State) (f : Flag) (v : Bool) : (s.setFlag f v).y = s.y := rfl
@[simp] theorem State.setFlag_sr (s : State) (f : Flag) (v : Bool) : (s.setFlag f v).sr = putFlag s.sr f v := rfl
@[simp] theorem State.setFlag_mem (s : State) (f : Flag) (v : Bool) : (s.setFlag f v).mem = s.mem := rfl
@[simp] theorem State.setFlag_reg (s : State) (f : Flag) (v : Bool) (r : Reg) : (s.setFlag f v).reg r = s.reg r := by
  cases r <;> rfl
@[simp] theorem State.setFlag_read (s : State) (f : Flag) (v : Bool) (a : Word) :
    (s.setFlag f v).read a = s.read a := rfl

/-! ### A state with another SR: its flags are those of the new SR, all else is as before -/

@[simp] theorem State.flag_withSr (s : State) (b : Byte) (f : Flag) : State.flag { s with sr := b } f = getFlag b f := rfl
@[simp] theorem State.read_withSr (s : State) (b : Byte) (a : Word) : State.read { s with sr := b } a = s.read a := rfl
@[simp] theorem State.reg_withSr (s : State) (b : Byte) (r : Reg) : State.reg { s with sr := b } r = s.reg r := by
  cases r <;> rfl

/-- Reading a bit of a status byte after writing one (10_state.md R28). -/
theorem getFlag_putFlag (sr : Byte) (f g : Flag) (v : Bool) :
    getFlag (putFlag sr f v) g = if f = g then v else getFlag sr g := by
  cases v <;> cases f <;> cases g <;> simp [getFlag, putFlag, Flag.mask, Flag.bit]

@[simp] theorem State.setFlag_flag (s : State) (f g : Flag) (v : Bool) :
    (s.setFlag f v).flag g = if f = g then v else s.flag g := getFlag_putFlag s.sr f g v

/-! ### The canonical form of memory -/

@[simp] theorem State.wf_write {s : State} (a : Word) (v : Byte) (h : s.wf = true) : (s.write a v).wf = true :=
  Memory.wf_write v a.isLt h
@[simp] theorem State.wf_setReg (s : State) (r : Reg) (v : Byte) : (s.setReg r v).wf = s.wf := by cases r <;> rfl
@[simp] theorem State.wf_setPc (s : State) (w : Word) : (s.setPc w).wf = s.wf := rfl
@[simp] theorem State.wf_setFlag (s : State) (f : Flag) (v : Bool) : (s.setFlag f v).wf = s.wf := rfl
/-- The memory after reset is in canonical form. -/
theorem reset_mem_wf : State.reset.mem.wf = true := rfl

end Sys2Proof.Machine
end

