-- ==== Sys2Proof/Laws/Ops.lean ====
section
/-! SUPPORT. One set of lemmas per shared operation, saying everything it does to the state. -/

namespace Sys2Proof.Machine

/-! ### `SetZN` (40_step_and_addressing.md R115) -/

@[simp] theorem State.setZN_pc (s : State) (v : Byte) : (s.setZN v).pc = s.pc := rfl
@[simp] theorem State.setZN_sp (s : State) (v : Byte) : (s.setZN v).sp = s.sp := rfl
@[simp] theorem State.setZN_ac (s : State) (v : Byte) : (s.setZN v).ac = s.ac := rfl
@[simp] theorem State.setZN_x (s : State) (v : Byte) : (s.setZN v).x = s.x := rfl
@[simp] theorem State.setZN_y (s : State) (v : Byte) : (s.setZN v).y = s.y := rfl
@[simp] theorem State.setZN_mem (s : State) (v : Byte) : (s.setZN v).mem = s.mem := rfl
@[simp] theorem State.setZN_reg (s : State) (v : Byte) (r : Reg) : (s.setZN v).reg r = s.reg r := by cases r <;> rfl
@[simp] theorem State.setZN_read (s : State) (v : Byte) (a : Word) : (s.setZN v).read a = s.read a := rfl
@[simp] theorem State.wf_setZN (s : State) (v : Byte) : (s.setZN v).wf = s.wf := rfl

@[simp] theorem State.setZN_flag (s : State) (v : Byte) (f : Flag) :
    (s.setZN v).flag f = if f = .n then v.getLsbD 7 else if f = .z then v == 0 else s.flag f := by
  cases f <;> simp [State.setZN]

/-! ### CMP's flags (41_logic_compare.md R132) -/

@[simp] theorem State.setCompare_pc (s : State) (r m : Byte) : (s.setCompare r m).pc = s.pc := rfl
@[simp] theorem State.setCompare_sp (s : State) (r m : Byte) : (s.setCompare r m).sp = s.sp := rfl
@[simp] theorem State.setCompare_ac (s : State) (r m : Byte) : (s.setCompare r m).ac = s.ac := rfl
@[simp] theorem State.setCompare_x (s : State) (r m : Byte) : (s.setCompare r m).x = s.x := rfl
@[simp] theorem State.setCompare_y (s : State) (r m : Byte) : (s.setCompare r m).y = s.y := rfl
@[simp] theorem State.setCompare_mem (s : State) (r m : Byte) : (s.setCompare r m).mem = s.mem := rfl
@[simp] theorem State.setCompare_reg (s : State) (r m : Byte) (q : Reg) : (s.setCompare r m).reg q = s.reg q := by
  cases q <;> rfl
@[simp] theorem State.setCompare_read (s : State) (r m : Byte) (a : Word) :
    (s.setCompare r m).read a = s.read a := rfl
@[simp] theorem State.wf_setCompare (s : State) (r m : Byte) : (s.setCompare r m).wf = s.wf := rfl

@[simp] theorem State.setCompare_flag (s : State) (r m : Byte) (f : Flag) :
    (s.setCompare r m).flag f =
      if f = .n then (r - m).getLsbD 7 else if f = .z then r == m
      else if f = .c then decide (m.toNat ≤ r.toNat) else s.flag f := by
  cases f <;> simp [State.setCompare]

/-! ### `Push` and `Pop` (20_memory.md R63, R64) -/

theorem stackAddr_inj {p q : Byte} : stackAddr p = stackAddr q ↔ p = q := by
  refine ⟨fun h => ?_, fun h => h ▸ rfl⟩
  simpa [stackAddr] using congrArg lowByte h

theorem stackAddr_toNat (p : Byte) : (stackAddr p).toNat = 0x0100 + p.toNat := by
  rw [stackAddr, joinBytes_toNat]
  rfl

/-- The two slots of one call are different bytes, whatever SP is. -/
@[simp] theorem stackAddr_pred_ne (p : Byte) : ¬stackAddr (p - 1#8) = stackAddr p := by
  rw [stackAddr_inj]
  revert p
  decide

@[simp] theorem State.push_pc (s : State) (b : Byte) : (s.push b).pc = s.pc := rfl
@[simp] theorem State.push_sp (s : State) (b : Byte) : (s.push b).sp = s.sp - 1 := rfl
@[simp] theorem State.push_ac (s : State) (b : Byte) : (s.push b).ac = s.ac := rfl
@[simp] theorem State.push_x (s : State) (b : Byte) : (s.push b).x = s.x := rfl
@[simp] theorem State.push_y (s : State) (b : Byte) : (s.push b).y = s.y := rfl
@[simp] theorem State.push_sr (s : State) (b : Byte) : (s.push b).sr = s.sr := rfl
@[simp] theorem State.push_flag (s : State) (b : Byte) (f : Flag) : (s.push b).flag f = s.flag f := rfl
@[simp] theorem State.push_read (s : State) (b : Byte) (a : Word) :
    (s.push b).read a = if stackAddr s.sp = a then b else s.read a := State.read_write s (stackAddr s.sp) a b
@[simp] theorem State.wf_push {s : State} (b : Byte) (h : s.wf = true) : (s.push b).wf = true :=
  State.wf_write (s := s) (stackAddr s.sp) b h

@[simp] theorem State.pop_value (s : State) : s.pop.1 = s.read (stackAddr (s.sp + 1)) := rfl
@[simp] theorem State.pop_state (s : State) : s.pop.2 = s.setReg .sp (s.sp + 1) := rfl

/-! ### `Fetch` (40_step_and_addressing.md R101) -/

@[simp] theorem State.fetch_value (s : State) : s.fetch.1 = s.read s.pc := rfl
@[simp] theorem State.fetch_state (s : State) : s.fetch.2 = s.setPc (s.pc + 1) := rfl

@[simp] theorem State.fetchBytes_zero (s : State) : State.fetchBytes 0 s = ([], s) := rfl
@[simp] theorem State.fetchBytes_succ (n : Nat) (s : State) :
    State.fetchBytes (n + 1) s =
      (s.read s.pc :: (State.fetchBytes n (s.setPc (s.pc + 1))).1, (State.fetchBytes n (s.setPc (s.pc + 1))).2) := rfl

/-! ### Loading bytes -/

@[simp] theorem State.load_nil (s : State) (a : Word) : s.load a [] = s := rfl
@[simp] theorem State.load_cons (s : State) (a : Word) (b : Byte) (bs : List Byte) :
    s.load a (b :: bs) = (s.write a b).load (a + 1) bs := rfl

end Sys2Proof.Machine
end

