-- ==== Sys2Proof/Laws/Meanings.lean ====
section
/-! SUPPORT. The operations the meanings share, each said once, field by field. -/

namespace Sys2Proof.Machine

/-! ### Operations that put a value into a register and set Z and N -/

theorem opAnd_eq (op : Operand) (s : State) : opAnd op s = opPutZN .ac (s.ac &&& op.val s) s := rfl
theorem opOra_eq (op : Operand) (s : State) : opOra op s = opPutZN .ac (s.ac ||| op.val s) s := rfl
theorem opModifyReg_eq (f : Byte → Byte) (r : Reg) (s : State) : opModifyReg f r s = opPutZN r (f (s.reg r)) s := rfl

@[simp] theorem opPutZN_reg (r q : Reg) (v : Byte) (s : State) :
    (opPutZN r v s).reg q = if r = q then v else s.reg q := by simp [opPutZN]
@[simp] theorem opPutZN_flag (r : Reg) (v : Byte) (s : State) (f : Flag) :
    (opPutZN r v s).flag f = if f = .n then v.getLsbD 7 else if f = .z then v == 0 else s.flag f := by
  simp [opPutZN]
@[simp] theorem opPutZN_pc (r : Reg) (v : Byte) (s : State) : (opPutZN r v s).pc = s.pc := by simp [opPutZN]
@[simp] theorem opPutZN_sp (r : Reg) (v : Byte) (s : State) :
    (opPutZN r v s).sp = if r = .sp then v else s.sp := by simp [opPutZN]
@[simp] theorem opPutZN_ac (r : Reg) (v : Byte) (s : State) :
    (opPutZN r v s).ac = if r = .ac then v else s.ac := by simp [opPutZN]
@[simp] theorem opPutZN_x (r : Reg) (v : Byte) (s : State) :
    (opPutZN r v s).x = if r = .x then v else s.x := by simp [opPutZN]
@[simp] theorem opPutZN_y (r : Reg) (v : Byte) (s : State) :
    (opPutZN r v s).y = if r = .y then v else s.y := by simp [opPutZN]
@[simp] theorem opPutZN_mem (r : Reg) (v : Byte) (s : State) : (opPutZN r v s).mem = s.mem := by simp [opPutZN]
@[simp] theorem opPutZN_read (r : Reg) (v : Byte) (s : State) (a : Word) :
    (opPutZN r v s).read a = s.read a := by simp [opPutZN]
@[simp] theorem wf_opPutZN (r : Reg) (v : Byte) (s : State) : (opPutZN r v s).wf = s.wf := by simp [opPutZN]

/-! ### INC and DEC -/

@[simp] theorem opModifyMem_reg (f : Byte → Byte) (a : Word) (s : State) (q : Reg) :
    (opModifyMem f a s).reg q = s.reg q := by simp [opModifyMem]
@[simp] theorem opModifyMem_flag (f : Byte → Byte) (a : Word) (s : State) (g : Flag) :
    (opModifyMem f a s).flag g =
      if g = .n then (f (s.read a)).getLsbD 7 else if g = .z then f (s.read a) == 0 else s.flag g := by
  simp [opModifyMem]
@[simp] theorem opModifyMem_pc (f : Byte → Byte) (a : Word) (s : State) : (opModifyMem f a s).pc = s.pc := rfl
@[simp] theorem opModifyMem_sp (f : Byte → Byte) (a : Word) (s : State) : (opModifyMem f a s).sp = s.sp := rfl
@[simp] theorem opModifyMem_ac (f : Byte → Byte) (a : Word) (s : State) : (opModifyMem f a s).ac = s.ac := rfl
@[simp] theorem opModifyMem_x (f : Byte → Byte) (a : Word) (s : State) : (opModifyMem f a s).x = s.x := rfl
@[simp] theorem opModifyMem_y (f : Byte → Byte) (a : Word) (s : State) : (opModifyMem f a s).y = s.y := rfl
@[simp] theorem opModifyMem_read (f : Byte → Byte) (a b : Word) (s : State) :
    (opModifyMem f a s).read b = if a = b then f (s.read a) else s.read b := by simp [opModifyMem]
@[simp] theorem wf_opModifyMem (f : Byte → Byte) (a : Word) {s : State} (h : s.wf = true) :
    (opModifyMem f a s).wf = true := by simp [opModifyMem, h]

/-! ### JSR and RTS -/

@[simp] theorem opCall_pc (w : Word) (s : State) : (opCall w s).pc = w := rfl
@[simp] theorem opCall_sp (w : Word) (s : State) : (opCall w s).sp = s.sp - 2 := by
  simp [opCall, BitVec.sub_sub]
@[simp] theorem opCall_ac (w : Word) (s : State) : (opCall w s).ac = s.ac := rfl
@[simp] theorem opCall_x (w : Word) (s : State) : (opCall w s).x = s.x := rfl
@[simp] theorem opCall_y (w : Word) (s : State) : (opCall w s).y = s.y := rfl
@[simp] theorem opCall_sr (w : Word) (s : State) : (opCall w s).sr = s.sr := rfl
@[simp] theorem opCall_flag (w : Word) (s : State) (f : Flag) : (opCall w s).flag f = s.flag f := rfl
@[simp] theorem opCall_read (w : Word) (s : State) (a : Word) :
    (opCall w s).read a = if stackAddr (s.sp - 1) = a then lowByte (s.pc - 1)
      else if stackAddr s.sp = a then highByte (s.pc - 1) else s.read a := by simp [opCall]
@[simp] theorem wf_opCall (w : Word) {s : State} (h : s.wf = true) : (opCall w s).wf = true := by simp [opCall, h]

theorem opReturn_eq (s : State) : opReturn s =
    (s.setReg .sp (s.sp + 2)).setPc (joinBytes (s.read (stackAddr (s.sp + 2))) (s.read (stackAddr (s.sp + 1))) + 1) := by
  simp [opReturn, State.setReg, BitVec.add_assoc]
  rfl

end Sys2Proof.Machine
end

