-- ==== Sys2Proof/Laws/PerInstr.lean ====
section
/-! SUPPORT. The laws stated per instruction: its encoding has its length, and the opcode map maps it. -/

namespace Sys2Proof.Laws

/-- The encoding of an instruction is as long as the format says (30_encoding.md R80, R81). -/
def EncodedLength.Statement (i : Instr) : Prop := (encode i).length = i.length

theorem EncodedLength.oraZp (a : Byte) : EncodedLength.Statement (.oraZp a) := rfl
theorem EncodedLength.oraImm (a : Byte) : EncodedLength.Statement (.oraImm a) := rfl
theorem EncodedLength.oraAbs (a : Word) : EncodedLength.Statement (.oraAbs a) := rfl
theorem EncodedLength.jsrAbs (a : Word) : EncodedLength.Statement (.jsrAbs a) := rfl
theorem EncodedLength.andZp (a : Byte) : EncodedLength.Statement (.andZp a) := rfl
theorem EncodedLength.andImm (a : Byte) : EncodedLength.Statement (.andImm a) := rfl
theorem EncodedLength.andAbs (a : Word) : EncodedLength.Statement (.andAbs a) := rfl
theorem EncodedLength.jmpAbs (a : Word) : EncodedLength.Statement (.jmpAbs a) := rfl
theorem EncodedLength.rts : EncodedLength.Statement .rts := rfl
theorem EncodedLength.sei : EncodedLength.Statement .sei := rfl
theorem EncodedLength.dey : EncodedLength.Statement .dey := rfl
theorem EncodedLength.styAbs (a : Word) : EncodedLength.Statement (.styAbs a) := rfl
theorem EncodedLength.stxAbs (a : Word) : EncodedLength.Statement (.stxAbs a) := rfl
theorem EncodedLength.txs : EncodedLength.Statement .txs := rfl
theorem EncodedLength.ldyImm (a : Byte) : EncodedLength.Statement (.ldyImm a) := rfl
theorem EncodedLength.ldxImm (a : Byte) : EncodedLength.Statement (.ldxImm a) := rfl
theorem EncodedLength.ldyZp (a : Byte) : EncodedLength.Statement (.ldyZp a) := rfl
theorem EncodedLength.ldaZp (a : Byte) : EncodedLength.Statement (.ldaZp a) := rfl
theorem EncodedLength.ldxZp (a : Byte) : EncodedLength.Statement (.ldxZp a) := rfl
theorem EncodedLength.tay : EncodedLength.Statement .tay := rfl
theorem EncodedLength.ldaImm (a : Byte) : EncodedLength.Statement (.ldaImm a) := rfl
theorem EncodedLength.tax : EncodedLength.Statement .tax := rfl
theorem EncodedLength.ldyZpx (a : Byte) : EncodedLength.Statement (.ldyZpx a) := rfl
theorem EncodedLength.ldaZpx (a : Byte) : EncodedLength.Statement (.ldaZpx a) := rfl
theorem EncodedLength.ldxZpy (a : Byte) : EncodedLength.Statement (.ldxZpy a) := rfl
theorem EncodedLength.iny : EncodedLength.Statement .iny := rfl
theorem EncodedLength.dex : EncodedLength.Statement .dex := rfl
theorem EncodedLength.decAbs (a : Word) : EncodedLength.Statement (.decAbs a) := rfl
theorem EncodedLength.bneRel (a : Byte) : EncodedLength.Statement (.bneRel a) := rfl
theorem EncodedLength.cld : EncodedLength.Statement .cld := rfl
theorem EncodedLength.cmpAbx (a : Word) : EncodedLength.Statement (.cmpAbx a) := rfl
theorem EncodedLength.inx : EncodedLength.Statement .inx := rfl
theorem EncodedLength.nop : EncodedLength.Statement .nop := rfl
theorem EncodedLength.incAbs (a : Word) : EncodedLength.Statement (.incAbs a) := rfl
theorem EncodedLength.beqRel (a : Byte) : EncodedLength.Statement (.beqRel a) := rfl

/-- The opcode map has a row for the instruction (R84). -/
def Mapped.Statement (i : Instr) : Prop := i.wf = true

theorem Mapped.oraZp (a : Byte) : Mapped.Statement (.oraZp a) := rfl
theorem Mapped.oraImm (a : Byte) : Mapped.Statement (.oraImm a) := rfl
theorem Mapped.oraAbs (a : Word) : Mapped.Statement (.oraAbs a) := rfl
theorem Mapped.jsrAbs (a : Word) : Mapped.Statement (.jsrAbs a) := rfl
theorem Mapped.andZp (a : Byte) : Mapped.Statement (.andZp a) := rfl
theorem Mapped.andImm (a : Byte) : Mapped.Statement (.andImm a) := rfl
theorem Mapped.andAbs (a : Word) : Mapped.Statement (.andAbs a) := rfl
theorem Mapped.jmpAbs (a : Word) : Mapped.Statement (.jmpAbs a) := rfl
theorem Mapped.rts : Mapped.Statement .rts := rfl
theorem Mapped.sei : Mapped.Statement .sei := rfl
theorem Mapped.dey : Mapped.Statement .dey := rfl
theorem Mapped.styAbs (a : Word) : Mapped.Statement (.styAbs a) := rfl
theorem Mapped.stxAbs (a : Word) : Mapped.Statement (.stxAbs a) := rfl
theorem Mapped.txs : Mapped.Statement .txs := rfl
theorem Mapped.ldyImm (a : Byte) : Mapped.Statement (.ldyImm a) := rfl
theorem Mapped.ldxImm (a : Byte) : Mapped.Statement (.ldxImm a) := rfl
theorem Mapped.ldyZp (a : Byte) : Mapped.Statement (.ldyZp a) := rfl
theorem Mapped.ldaZp (a : Byte) : Mapped.Statement (.ldaZp a) := rfl
theorem Mapped.ldxZp (a : Byte) : Mapped.Statement (.ldxZp a) := rfl
theorem Mapped.tay : Mapped.Statement .tay := rfl
theorem Mapped.ldaImm (a : Byte) : Mapped.Statement (.ldaImm a) := rfl
theorem Mapped.tax : Mapped.Statement .tax := rfl
theorem Mapped.ldyZpx (a : Byte) : Mapped.Statement (.ldyZpx a) := rfl
theorem Mapped.ldaZpx (a : Byte) : Mapped.Statement (.ldaZpx a) := rfl
theorem Mapped.ldxZpy (a : Byte) : Mapped.Statement (.ldxZpy a) := rfl
theorem Mapped.iny : Mapped.Statement .iny := rfl
theorem Mapped.dex : Mapped.Statement .dex := rfl
theorem Mapped.decAbs (a : Word) : Mapped.Statement (.decAbs a) := rfl
theorem Mapped.bneRel (a : Byte) : Mapped.Statement (.bneRel a) := rfl
theorem Mapped.cld : Mapped.Statement .cld := rfl
theorem Mapped.cmpAbx (a : Word) : Mapped.Statement (.cmpAbx a) := rfl
theorem Mapped.inx : Mapped.Statement .inx := rfl
theorem Mapped.nop : Mapped.Statement .nop := rfl
theorem Mapped.incAbs (a : Word) : Mapped.Statement (.incAbs a) := rfl
theorem Mapped.beqRel (a : Byte) : Mapped.Statement (.beqRel a) := rfl

end Sys2Proof.Laws
end

