-- ==== Sys2Proof/Laws/Step.lean ====
section
/-! SUPPORT. What a step can do, said once: fetching `n` bytes, the two cases of `step`, and their inversions. -/

namespace Sys2Proof.Machine

theorem fetchBytes_state (n : Nat) (s : State) :
    (State.fetchBytes n s).2 = s.setPc (s.pc + BitVec.ofNat 16 n) := by
  induction n generalizing s with
  | zero => simp [State.setPc]
  | succ n ih =>
    rw [State.fetchBytes_succ, ih, State.setPc_setPc, State.setPc_pc, BitVec.ofNat_add, BitVec.add_assoc,
      BitVec.add_comm (BitVec.ofNat 16 n)]
    rfl

theorem fetchBytes_length (n : Nat) (s : State) : (State.fetchBytes n s).1.length = n := by
  induction n generalizing s with
  | zero => rfl
  | succ n ih => simp [ih]

/-- The operand bytes an instruction of entry `e` at pc has (30_encoding.md R81). -/
def operandsAt (e : Entry) (s : State) : List Byte :=
  (State.fetchBytes e.format.operandCount (s.setPc (s.pc + 1))).1

/-- The state an instruction of entry `e` at pc runs in: pc past the whole of it (40_step_and_addressing.md R100). -/
def pastInstr (e : Entry) (s : State) : State :=
  s.setPc (s.pc + BitVec.ofNat 16 (1 + e.format.operandCount))

theorem step_of_unmapped {s : State} (h : lookup (s.read s.pc) = none) :
    step s = .fault (.unmappedOpcode (s.read s.pc) s.pc (s.setPc (s.pc + 1))) := by
  simp [step, fetchDecode, h, raiseUnmappedOpcode]

theorem step_of_mapped {s : State} {e : Entry} (h : lookup (s.read s.pc) = some e) :
    step s = exec (assemble e (operandsAt e s)) (pastInstr e s) := by
  simp [step, fetchDecode, h, operandsAt, pastInstr, fetchBytes_state, BitVec.ofNat_add, BitVec.add_assoc]

/-- Every step is one of the two: a fault that moves only pc, or one instruction run past its bytes. -/
theorem step_cases (s : State) :
    (lookup (s.read s.pc) = none ∧
      step s = .fault (.unmappedOpcode (s.read s.pc) s.pc (s.setPc (s.pc + 1)))) ∨
    ∃ e, lookup (s.read s.pc) = some e ∧ opcodeOf e = some (s.read s.pc) ∧
      step s = exec (assemble e (operandsAt e s)) (pastInstr e s) := by
  cases h : lookup (s.read s.pc) with
  | none => exact .inl ⟨rfl, step_of_unmapped h⟩
  | some e => exact .inr ⟨e, rfl, opcodeOf_of_lookup h, step_of_mapped h⟩

/-- What a step to a next state was. -/
theorem step_next {s t : State} (h : step s = .next t) :
    ∃ e, opcodeOf e = some (s.read s.pc) ∧ exec (assemble e (operandsAt e s)) (pastInstr e s) = .next t := by
  rcases step_cases s with ⟨_, hf⟩ | ⟨e, _, ho, he⟩
  · rw [h] at hf
    cases hf
  · exact ⟨e, ho, he ▸ h⟩

/-! ### Runs -/

theorem run_zero (s : State) : Sys2Proof.core.run 0 s = .next s := rfl

theorem run_next {s t : State} (n : Nat) (h : step s = .next t) :
    Sys2Proof.core.run (n + 1) s = Sys2Proof.core.run n t := by
  have run := Host.Core.run.eq_2 Sys2Proof.core s n
  rw [show Sys2Proof.core.step s = .next t from h] at run
  exact run

theorem run_fault {s : State} {f : Fault} (n : Nat) (h : step s = .fault f) :
    Sys2Proof.core.run (n + 1) s = .fault f := by
  have run := Host.Core.run.eq_2 Sys2Proof.core s n
  rw [show Sys2Proof.core.step s = .fault f from h] at run
  exact run

theorem step_never_refused (s : State) (r : Refusal) : step s ≠ .refused r := by
  rcases step_cases s with ⟨_, h⟩ | ⟨e, _, _, h⟩ <;> rw [h]
  · simp
  · cases assemble e (operandsAt e s) <;> rintro ⟨⟩

end Sys2Proof.Machine
end

