-- ==== Sys2Proof/Tests/Slice0.lean ====
section
/-! SUPPORT. The model's own tests: the checks of WellFormed on ill-formed terms, every constructor's word written out
from 30_encoding.md R81 and R84, one-step vectors of 95_test_vectors.md (each named by its id there), and a witness
for the hypotheses of every statement that has any. -/

namespace Sys2Proof.Tests

open Sys2Proof.Machine Sys2Proof.Claims

/-- `s` with bytes stored from `a` on and pc at `a`: the start state of a vector (95_test_vectors.md, Conventions). -/
def start (a : Word) (bytes : List Byte) (s : State) : State := { s.load a bytes with pc := a }

/-- What a step to a next state gives, as data that can be compared. -/
def after {α : Type} (f : State → α) (s : State) : Option α :=
  match step s with
  | .next t => some (f t)
  | .fault _ => none
  | .refused _ => none

/-- The fault of a step, as data that can be compared. -/
def faultOf (s : State) : Option Fault :=
  match step s with
  | .next _ => none
  | .fault f => some f
  | .refused _ => none

theorem next_of_after {s t : State} (h : after id s = some t) : step s = .next t := by
  simp only [after] at h
  split at h <;> simp_all

/-! ### WellFormed refuses ill-formed terms -/

theorem test_wf_refuses_a_byte_with_two_entries :
    OpcodeMap.bytesDistinct [(0x60, .rts), (0x60, .nop)] = false := by decide

theorem test_wf_refuses_an_entry_with_two_bytes :
    OpcodeMap.entriesDistinct [(0x60, .rts), (0x61, .rts)] = false := by decide

theorem test_wf_refuses_a_map_wrong_either_way :
    OpcodeMap.wf [(0x60, .rts), (0x60, .nop)] = false ∧ OpcodeMap.wf [(0x60, .rts), (0x61, .rts)] = false := by decide

theorem test_wf_refuses_an_instruction_the_map_lacks : Instr.wfIn [(0x60, .rts)] .nop = false := by decide

theorem test_wf_accepts_this_map : opcodeMap.wf = true ∧ opcodeMap.length = 35 := by decide

theorem test_memory_wf_refuses_descending_addresses : Memory.wf [(2, 1), (1, 1)] = false := by decide

theorem test_memory_wf_refuses_a_repeated_address : Memory.wf [(1, 1), (1, 2)] = false := by decide

theorem test_memory_wf_refuses_a_listed_reset_value : Memory.wf [(1, 0)] = false := by decide

theorem test_memory_wf_refuses_an_address_past_the_end : Memory.wf [(65536, 1)] = false := by decide

/-! ### Decoding: a word of every constructor, and what is rejected -/

theorem test_decode_imp :
    decode [0x60, 0x34] = .ok (.rts, [0x34]) ∧
    decode [0x78, 0x34] = .ok (.sei, [0x34]) ∧
    decode [0x88, 0x34] = .ok (.dey, [0x34]) ∧
    decode [0x9A, 0x34] = .ok (.txs, [0x34]) ∧
    decode [0xA8, 0x34] = .ok (.tay, [0x34]) ∧
    decode [0xAA, 0x34] = .ok (.tax, [0x34]) := by decide

theorem test_decode_imp_more :
    decode [0xC8, 0x34] = .ok (.iny, [0x34]) ∧
    decode [0xCA, 0x34] = .ok (.dex, [0x34]) ∧
    decode [0xD8, 0x34] = .ok (.cld, [0x34]) ∧
    decode [0xE8, 0x34] = .ok (.inx, [0x34]) ∧
    decode [0xEA, 0x34] = .ok (.nop, [0x34]) := by decide

theorem test_decode_imm :
    decode [0x09, 0x9C, 0x12] = .ok (.oraImm 0x9C, [0x12]) ∧
    decode [0x29, 0x9C, 0x12] = .ok (.andImm 0x9C, [0x12]) ∧
    decode [0xA0, 0x9C, 0x12] = .ok (.ldyImm 0x9C, [0x12]) ∧
    decode [0xA2, 0x9C, 0x12] = .ok (.ldxImm 0x9C, [0x12]) ∧
    decode [0xA9, 0x9C, 0x12] = .ok (.ldaImm 0x9C, [0x12]) := by decide

theorem test_decode_zp :
    decode [0x05, 0x9C, 0x12] = .ok (.oraZp 0x9C, [0x12]) ∧
    decode [0x25, 0x9C, 0x12] = .ok (.andZp 0x9C, [0x12]) ∧
    decode [0xA4, 0x9C, 0x12] = .ok (.ldyZp 0x9C, [0x12]) ∧
    decode [0xA5, 0x9C, 0x12] = .ok (.ldaZp 0x9C, [0x12]) ∧
    decode [0xA6, 0x9C, 0x12] = .ok (.ldxZp 0x9C, [0x12]) := by decide

theorem test_decode_zpx :
    decode [0xB4, 0x9C, 0x12] = .ok (.ldyZpx 0x9C, [0x12]) ∧
    decode [0xB5, 0x9C, 0x12] = .ok (.ldaZpx 0x9C, [0x12]) := by decide

theorem test_decode_zpy :
    decode [0xB6, 0x9C, 0x12] = .ok (.ldxZpy 0x9C, [0x12]) := by decide

theorem test_decode_abs :
    decode [0x0D, 0x34, 0x12] = .ok (.oraAbs 0x1234, []) ∧
    decode [0x20, 0x34, 0x12] = .ok (.jsrAbs 0x1234, []) ∧
    decode [0x2D, 0x34, 0x12] = .ok (.andAbs 0x1234, []) ∧
    decode [0x4C, 0x34, 0x12] = .ok (.jmpAbs 0x1234, []) ∧
    decode [0x8C, 0x34, 0x12] = .ok (.styAbs 0x1234, []) ∧
    decode [0x8E, 0x34, 0x12] = .ok (.stxAbs 0x1234, []) := by decide

theorem test_decode_abs_more :
    decode [0xCE, 0x34, 0x12] = .ok (.decAbs 0x1234, []) ∧
    decode [0xEE, 0x34, 0x12] = .ok (.incAbs 0x1234, []) := by decide

theorem test_decode_abx :
    decode [0xDD, 0x34, 0x12] = .ok (.cmpAbx 0x1234, []) := by decide

theorem test_decode_rel :
    decode [0xD0, 0x9C, 0x12] = .ok (.bneRel 0x9C, [0x12]) ∧
    decode [0xF0, 0x9C, 0x12] = .ok (.beqRel 0x9C, [0x12]) := by decide

theorem test_decode_rejects_by_name :
    decode [0x00] = .error (.unmappedOpcode 0x00) ∧ decode [0x6C, 0x00, 0x30] = .error (.unmappedOpcode 0x6C) ∧
    decode [0xC9, 0x10] = .error (.unmappedOpcode 0xC9) ∧ decode [0x4C, 0x34] = .error .endOfBytes ∧
    decode [] = .error .endOfBytes := by decide

theorem test_decodeTableWord :
    decodeTableWord 24 0x12344C = some (.jmpAbs 0x1234) ∧ decodeTableWord 8 0x4C = some (.jmpAbs 0x0000) ∧
    decodeTableWord 16 0xFF04F0 = some (.beqRel 0x04) ∧ decodeTableWord 8 0x00 = none := by decide

theorem test_withFetchWord : after (fun t => t.pc) (State.reset.withFetchWord 24 0x12344C) = some 0x1234 := by decide

/-! ### One step: the vectors of 95_test_vectors.md -/

theorem test_L1_and_imm : after (fun t => (t.ac, t.sr, t.pc))
    (start 0x0200 [0x29, 0xF0] { State.reset with ac := 0x55, sr := 0x41 }) =
    some (0x50, 0x41, 0x0202) := by decide

theorem test_L4_and_imm : after (fun t => (t.ac, t.sr))
    (start 0x0200 [0x29, 0xFF] { State.reset with ac := 0x00, sr := 0x41 }) =
    some (0x00, 0x43) := by decide

theorem test_L6_and_zp : after (fun t => (t.ac, t.sr, t.pc))
    (start 0x0200 [0x25, 0x10] { (State.reset.write 0x0010 0x3C) with ac := 0x0F }) =
    some (0x0C, 0x00, 0x0202) := by decide

theorem test_L7_and_abs : after (fun t => (t.ac, t.sr, t.pc))
    (start 0x0200 [0x2D, 0x00, 0x30] { (State.reset.write 0x3000 0x80) with ac := 0xC0 }) =
    some (0x80, 0x80, 0x0203) := by decide

theorem test_L8_ora_imm : after (fun t => (t.ac, t.sr, t.pc))
    (start 0x0200 [0x09, 0x0A] { State.reset with ac := 0x50, sr := 0x41 }) =
    some (0x5A, 0x41, 0x0202) := by decide

theorem test_L9_ora_imm : after (fun t => (t.ac, t.sr))
    (start 0x0200 [0x09, 0x00] { State.reset with ac := 0x00, sr := 0x41 }) =
    some (0x00, 0x43) := by decide

theorem test_L13_ora_zp : after (fun t => (t.ac, t.sr, t.pc))
    (start 0x0200 [0x05, 0x10] { (State.reset.write 0x0010 0x01) with ac := 0x80 }) =
    some (0x81, 0x80, 0x0202) := by decide

theorem test_L14_ora_abs : after (fun t => (t.ac, t.sr, t.pc))
    (start 0x0200 [0x0D, 0x00, 0x30] { State.reset with sr := 0x80 }) =
    some (0x00, 0x02, 0x0203) := by decide

theorem test_A3_cmp_abx : after (fun t => (t.sr, t.ac, t.pc))
    (start 0x0200 [0xDD, 0xFF, 0xFF] { (State.reset.write 0x0001 0x10) with x := 0x02, ac := 0x10 }) =
    some (0x03, 0x10, 0x0203) := by decide

theorem test_K5_cmp_abx : after (fun t => (t.sr, t.ac))
    (start 0x0200 [0xDD, 0x00, 0x30] { State.reset with ac := 0xFF, sr := 0xFC }) =
    some (0xFD, 0xFF) := by decide

theorem test_I2_inc : after (fun t => (t.read 0x2000, t.sr, t.pc))
    (start 0x0200 [0xEE, 0x00, 0x20] { (State.reset.write 0x2000 0x7F) with sr := 0x41 }) =
    some (0x80, 0xC1, 0x0203) := by decide

theorem test_I3_inc : after (fun t => (t.read 0x2000, t.sr))
    (start 0x0200 [0xEE, 0x00, 0x20] { (State.reset.write 0x2000 0xFF) with sr := 0x41 }) =
    some (0x00, 0x43) := by decide

theorem test_I5_dec : after (fun t => (t.read 0x2000, t.sr))
    (start 0x0200 [0xCE, 0x00, 0x20] { State.reset with sr := 0x41 }) =
    some (0xFF, 0xC1) := by decide

theorem test_S3_dec : after (fun t => (t.read 0xDEAD, t.sr, t.pc))
    (start 0x0000 [0xCE, 0xAD, 0xDE] (State.reset.write 0xDEAD 0xAA)) =
    some (0xA9, 0x80, 0x0003) := by decide

theorem test_I10_inx : after (fun t => (t.x, t.sr, t.pc))
    (start 0x0200 [0xE8] { State.reset with x := 0x7F, sr := 0x01 }) =
    some (0x80, 0x81, 0x0201) := by decide

theorem test_I11_inx : after (fun t => (t.x, t.sr))
    (start 0x0200 [0xE8] { State.reset with x := 0xFF, sr := 0x01 }) =
    some (0x00, 0x03) := by decide

theorem test_I12_dex : after (fun t => (t.x, t.sr, t.pc))
    (start 0x0200 [0xCA] { State.reset with x := 0x01, sr := 0x01 }) =
    some (0x00, 0x03, 0x0201) := by decide

theorem test_I13_dex : after (fun t => (t.x, t.sr))
    (start 0x0200 [0xCA] { State.reset with x := 0x00, sr := 0x01 }) =
    some (0xFF, 0x81) := by decide

theorem test_I16_iny : after (fun t => (t.y, t.sr, t.pc))
    (start 0x0200 [0xC8] { State.reset with y := 0x7F }) =
    some (0x80, 0x80, 0x0201) := by decide

theorem test_I17_iny : after (fun t => (t.y, t.sr))
    (start 0x0200 [0xC8] { State.reset with y := 0xFF }) =
    some (0x00, 0x02) := by decide

theorem test_I18_dey : after (fun t => (t.y, t.sr, t.pc))
    (start 0x0200 [0x88] { State.reset with y := 0x01 }) =
    some (0x00, 0x02, 0x0201) := by decide

theorem test_I19_dey : after (fun t => (t.y, t.sr))
    (start 0x0200 [0x88] { State.reset with y := 0x00 }) =
    some (0xFF, 0x80) := by decide

theorem test_M1_lda_imm : after (fun t => (t.ac, t.sr, t.pc))
    (start 0x0200 [0xA9, 0x80] { State.reset with sr := 0x02 }) =
    some (0x80, 0x80, 0x0202) := by decide

theorem test_A5_lda_imm : after (fun t => (t.ac, t.sr, t.pc))
    (start 0xFFFF [0xA9, 0x80] State.reset) =
    some (0x80, 0x80, 0x0001) := by decide

theorem test_M2_lda_zp : after (fun t => (t.ac, t.sr))
    (start 0x0200 [0xA5, 0x10] { State.reset with ac := 0x33, sr := 0x80 }) =
    some (0x00, 0x02) := by decide

theorem test_A1_lda_zpx : after (fun t => (t.ac, t.sr, t.pc))
    (start 0x0200 [0xB5, 0xFE] { (State.reset.write 0x0003 0x80) with x := 0x05 }) =
    some (0x80, 0x80, 0x0202) := by decide

theorem test_M3_lda_zpx : after (fun t => (t.ac, t.sr))
    (start 0x0200 [0xB5, 0x10] { (State.reset.write 0x0014 0x7F) with x := 0x04 }) =
    some (0x7F, 0x00) := by decide

theorem test_M4_ldx_imm : after (fun t => (t.x, t.sr))
    (start 0x0200 [0xA2, 0xFF] State.reset) =
    some (0xFF, 0x80) := by decide

theorem test_M5_ldx_zp : after (fun t => (t.x, t.sr))
    (start 0x0200 [0xA6, 0x10] { (State.reset.write 0x0010 0x01) with sr := 0x82 }) =
    some (0x01, 0x00) := by decide

theorem test_A2_ldx_zpy : after (fun t => (t.x, t.sr, t.pc))
    (start 0x0200 [0xB6, 0xFF] { (State.reset.write 0x0001 0x42) with y := 0x02 }) =
    some (0x42, 0x00, 0x0202) := by decide

theorem test_M6_ldx_zpy : after (fun t => (t.x, t.sr))
    (start 0x0200 [0xB6, 0x10] { State.reset with x := 0x09, y := 0x01 }) =
    some (0x00, 0x02) := by decide

theorem test_M7_ldy_imm : after (fun t => (t.y, t.sr))
    (start 0x0200 [0xA0, 0x00] { State.reset with y := 0x05 }) =
    some (0x00, 0x02) := by decide

theorem test_M8_ldy_zp : after (fun t => (t.y, t.sr))
    (start 0x0200 [0xA4, 0xFF] (State.reset.write 0x00FF 0x90)) =
    some (0x90, 0x80) := by decide

theorem test_M9_ldy_zpx : after (fun t => (t.y, t.sr))
    (start 0x0200 [0xB4, 0x80] { (State.reset.write 0x007F 0x01) with x := 0xFF, sr := 0x82 }) =
    some (0x01, 0x00) := by decide

theorem test_A6_stx : after (fun t => (t.read 0x1234, t.pc))
    (start 0xFFFE [0x8E, 0x34, 0x12] { State.reset with x := 0x77 }) =
    some (0x77, 0x0001) := by decide

theorem test_M10_stx : after (fun t => (t.read 0x3001, t.sr, t.pc))
    (start 0x0200 [0x8E, 0x01, 0x30] { State.reset with x := 0x5A, sr := 0xFF }) =
    some (0x5A, 0xFF, 0x0203) := by decide

theorem test_M12_sty : after (fun t => (t.read 0x0300, t.sr))
    (start 0x0200 [0x8C, 0x00, 0x03] { State.reset with y := 0x03, sr := 0x80 }) =
    some (0x03, 0x80) := by decide

theorem test_M14_tax : after (fun t => (t.x, t.sr, t.pc))
    (start 0x0200 [0xAA] { State.reset with ac := 0x5A, x := 0x01, sr := 0x82 }) =
    some (0x5A, 0x00, 0x0201) := by decide

theorem test_M15_tax : after (fun t => (t.x, t.sr))
    (start 0x0200 [0xAA] { State.reset with x := 0x07 }) =
    some (0x00, 0x02) := by decide

theorem test_M16_tay : after (fun t => (t.y, t.sr))
    (start 0x0200 [0xA8] { State.reset with ac := 0x80, sr := 0x02 }) =
    some (0x80, 0x80) := by decide

theorem test_M17_txs : after (fun t => (t.sp, t.sr, t.pc))
    (start 0x0200 [0x9A] { State.reset with x := 0xFF, sr := 0x02 }) =
    some (0xFF, 0x02, 0x0201) := by decide

theorem test_M18_txs : after (fun t => (t.sp, t.sr))
    (start 0x0200 [0x9A] { State.reset with x := 0x00, sp := 0x55, sr := 0x80 }) =
    some (0x00, 0x80) := by decide

theorem test_T1_jmp : after (fun t => (t.pc, t.sp))
    (start 0x0200 [0x4C, 0x34, 0x12] State.reset) =
    some (0x1234, 0x00) := by decide

theorem test_T4_jsr : after (fun t => (t.pc, t.sp, t.read 0x0100, t.read 0x01FF))
    (start 0x03E8 [0x20, 0xAD, 0xDE] State.reset) =
    some (0xDEAD, 0xFE, 0x03, 0xEA) := by decide

theorem test_T8_jsr : after (fun t => (t.pc, t.sp, t.read 0x01FF, t.read 0x01FE))
    (start 0x01FD [0x20, 0x00, 0x30] { State.reset with sp := 0xFF }) =
    some (0x3000, 0xFD, 0x01, 0xFF) := by decide

theorem test_T10_rts : after (fun t => (t.pc, t.sp))
    (start 0x4000 [0x60] { ((State.reset.write 0x01FF 0xFF).write 0x0100 0xFF) with sp := 0xFE }) =
    some (0x0000, 0x00) := by decide

theorem test_T11_rts : after (fun t => (t.pc, t.sp))
    (start 0x4000 [0x60] { ((State.reset.write 0x0100 0x33).write 0x0101 0x12) with sp := 0xFF }) =
    some (0x1234, 0x01) := by decide

theorem test_A12_beq : after (fun t => (t.pc, t.sr))
    (start 0x0001 [0xF0, 0x80] { State.reset with sr := 0x02 }) =
    some (0xFF83, 0x02) := by decide

theorem test_T14_beq : after (fun t => (t.pc, t.sr))
    (start 0x0400 [0xF0, 0x04] { State.reset with sr := 0xFD }) =
    some (0x0402, 0xFD) := by decide

theorem test_T12_bne : after (fun t => (t.pc, t.sr))
    (start 0x0206 [0xD0, 0xFC] State.reset) =
    some (0x0204, 0x00) := by decide

theorem test_T13_bne : after (fun t => (t.pc, t.sr))
    (start 0x0206 [0xD0, 0xFC] { State.reset with sr := 0x02 }) =
    some (0x0208, 0x02) := by decide

theorem test_F1_nop : after (fun t => (t.pc, t.ac, t.x, t.y, t.sp, t.sr))
    (start 0x020B [0xEA] { State.reset with ac := 0x01, x := 0x02, y := 0x03, sp := 0x04, sr := 0xA5 }) =
    some (0x020C, 0x01, 0x02, 0x03, 0x04, 0xA5) := by decide

theorem test_F2_cld : after (fun t => (t.sr, t.pc))
    (start 0x0200 [0xD8] { State.reset with sr := 0xFF }) =
    some (0xF7, 0x0201) := by decide

theorem test_F4_sei : after (fun t => (t.sr, t.pc))
    (start 0x0200 [0x78] State.reset) =
    some (0x04, 0x0201) := by decide

theorem test_X1_unmapped : faultOf State.reset =
    some (.unmappedOpcode 0x00 0x0000 { State.reset with pc := 0x0001 }) := by decide

theorem test_X2_unmapped :
    (faultOf (start 0xFFFF [0xFF] { State.reset with ac := 0x01, sr := 0x82 })).map
      (fun f => (f.observed.pc, f.observed.ac, f.observed.sr, f.observed.read 0xFFFF)) =
    some (0x0000, 0x01, 0x82, 0xFF) := by decide

theorem test_X3_unmapped :
    (faultOf (start 0x0200 [0x6C, 0x00, 0x30] State.reset)).map (fun f => f.observed.pc) = some 0x0201 := by decide

/-! ### The host's side (60_exceptions.md R189) -/

theorem test_host_writes_one_flag :
    ((HostAction.writeFlag .u true).apply State.reset).sr = 0x20 ∧
    ((HostAction.writeFlag .z false).apply { State.reset with sr := 0xFF }).sr = 0xFD := by decide

theorem test_host_setup :
    after (fun t => t.pc) (hostSetup [.writeMem 0x0200 0x4C, .writeMem 0x0201 0x34, .writeMem 0x0202 0x12,
      .writePc 0x0200] State.reset) = some 0x1234 := by decide

theorem test_writing_the_reset_value_unlists : ((State.reset.write 5 1).write 5 0).mem = [] := by decide

/-! ### Witnesses for the hypotheses of the statements -/

theorem witness_PushStoresThenDecrements : State.reset.sp = 0x00 := by decide

theorem witness_DecodedBytesAreTheEncoding :
    decode [0x4C, 0x34, 0x12, 0xEA] = .ok (.jmpAbs 0x1234, [0xEA]) := by decide

theorem witness_OpcodeByteAloneSelects :
    decode (0xA5 :: [0x00]) = .ok (.ldaZp 0x00, []) ∧ decode (0xA5 :: [0xFF, 0x60]) = .ok (.ldaZp 0xFF, [0x60]) := by
  decide

theorem witness_StepRunsDecodedInstruction :
    decode (codeAt (start 0xFFFE [0x8E, 0x34, 0x12] State.reset)) = .ok (.stxAbs 0x1234, []) := by decide

theorem witness_StepRunsDecodedInstruction_unmapped :
    decode (codeAt State.reset) = .error (.unmappedOpcode 0x00) := by decide

theorem witness_UnmappedOpcodeFaults :
    lookup (State.reset.read State.reset.pc) = none ∧
    lookup ((start 0xFFFF [0xFF] State.reset).read (start 0xFFFF [0xFF] State.reset).pc) = none := by decide

/-- The last address of the space with the opcode byte `b` there and the flags `sr`. -/
def atTop (b sr : Byte) : State := { start 0xFFFF [b] State.reset with sr := sr }

/-- Every mapped byte steps to a next state, at the address where pc wraps, with Z clear and with Z set: a witness for
each clause of `StepAdvancesPc` at every byte of its list. -/
theorem witness_StepAdvancesPc : ∀ b ∈ mappedBytes, ∀ sr ∈ [(0x00 : Byte), 0x02],
    (atTop b sr).read (atTop b sr).pc = b ∧ ∃ t, step (atTop b sr) = .next t := by
  have all : ∀ b ∈ mappedBytes, ∀ sr ∈ [(0x00 : Byte), 0x02],
      (atTop b sr).read (atTop b sr).pc = b ∧ (after id (atTop b sr)).isSome = true := by decide
  intro b hb sr hsr
  obtain ⟨hr, h⟩ := all b hb sr hsr
  obtain ⟨t, ht⟩ := Option.isSome_iff_exists.1 h
  exact ⟨hr, t, next_of_after ht⟩

/-- The clauses of `StepFlagWriters` on a state with every flag set: NOP is none of CLD, SEI and CMP, and writes neither
Z nor N. -/
theorem witness_StepFlagWriters : ∃ t, step (atTop 0xEA 0xFF) = .next t ∧ t.flag .d = true ∧
    (atTop 0xEA 0xFF).flag .i = true ∧ (atTop 0xEA 0xFF).read 0xFFFF = 0xEA := ⟨_, rfl, by decide⟩

theorem witness_StepRegisterWriters_sp : ∃ t, step (atTop 0x20 0x00) = .next t ∧ t.sp ≠ (atTop 0x20 0x00).sp :=
  ⟨_, rfl, by decide⟩

theorem witness_StepRegisterWriters_ac : ∃ t, step (start 0xFFFF [0xA9, 0x80] State.reset) = .next t ∧
    t.ac ≠ (start 0xFFFF [0xA9, 0x80] State.reset).ac := ⟨_, rfl, by decide⟩

theorem witness_StepRegisterWriters_x : ∃ t, step (atTop 0xCA 0x00) = .next t ∧ t.x ≠ (atTop 0xCA 0x00).x :=
  ⟨_, rfl, by decide⟩

theorem witness_StepRegisterWriters_y : ∃ t, step (atTop 0x88 0x00) = .next t ∧ t.y ≠ (atTop 0x88 0x00).y :=
  ⟨_, rfl, by decide⟩

theorem witness_StepMemoryWriters_store : ∃ t, step (start 0xFFFE [0xEE, 0xFF, 0xFF] State.reset) = .next t ∧
    t.read 0xFFFF ≠ (start 0xFFFE [0xEE, 0xFF, 0xFF] State.reset).read 0xFFFF := ⟨_, rfl, by decide⟩

theorem witness_StepMemoryWriters_call : ∃ t, step (start 0x03E8 [0x20, 0xAD, 0xDE] State.reset) = .next t ∧
    t.read 0x0100 ≠ (start 0x03E8 [0x20, 0xAD, 0xDE] State.reset).read 0x0100 ∧
    t.read 0x01FF ≠ (start 0x03E8 [0x20, 0xAD, 0xDE] State.reset).read 0x01FF := ⟨_, rfl, by decide⟩

theorem witness_OnlyZeroFlagIsRead :
    (0xFD : Byte).getLsbD 1 = (atTop 0xF0 0x00).sr.getLsbD 1 ∧ (0x02 : Byte).getLsbD 1 = (atTop 0xF0 0xFF).sr.getLsbD 1 :=
  by decide

/-- Both outcomes are met. CMP of 0x00 with 0x00 from SR 0x00 and from 0xFD writes C and Z to 1 and N to 0 in both and
keeps the other five flags in each (41_logic_compare.md R132); the unmapped 0x00 faults from both. -/
theorem witness_OnlyZeroFlagIsRead_outcomes :
    after State.sr (atTop 0xDD 0x00) = some 0x03 ∧ after State.sr (atTop 0xDD 0xFD) = some 0x7F ∧
    after State.sr (atTop 0x00 0x00) = none ∧ after State.sr (atTop 0x00 0xFD) = none := by decide

/-- Scenario 5 of the source, its derived instance S5: a call to an RTS. -/
def callToReturn : State := (start 0x0000 [0x20, 0x00, 0x10] State.reset).write 0x1000 0x60

theorem witness_CallThenReturn : callToReturn.read callToReturn.pc = 0x20 ∧
    ∃ t, step callToReturn = .next t ∧ t.read t.pc = 0x60 := ⟨by decide, _, rfl, by decide⟩

theorem witness_StepKeepsCanonicalMemory :
    callToReturn.wf = true ∧ (∃ t, step callToReturn = .next t) ∧ State.reset.wf = true ∧
    ∃ f, step State.reset = .fault f := ⟨by decide, ⟨_, rfl⟩, by decide, _, rfl⟩

/-- Two states built by the same two writes in either order. -/
theorem witness_CanonicalStatesAreDetermined :
    let s := (State.reset.write 0x0010 0x05).write 0x0008 0x07
    let t := (State.reset.write 0x0008 0x07).write 0x0010 0x05
    s.wf = true ∧ t.wf = true ∧ s.pc = t.pc ∧ s.sr = t.sr ∧ RegsKept [] s t ∧ MemKept [] s t := by
  refine ⟨by decide, by decide, rfl, rfl, fun r _ => by simp, fun a _ => ?_⟩
  simp only [State.read_write]
  split <;> split <;> first | rfl | (rename_i h1 h2; exact absurd (h1.trans h2.symm) (by decide))

theorem witness_HostBuildsEveryLaunchState : callToReturn.wf = true := by decide

/-- NOP at 0xFFFF, then the unmapped 0x00 at 0x0000: both sides of both clauses are met, at k = 1 below n = 2. -/
theorem witness_FaultEndsTheRun :
    (∃ f, Sys2Proof.core.run 2 (atTop 0xEA 0x00) = .fault f ∧
      runUntil (fun _ => false) 2 (atTop 0xEA 0x00) = some (.fault f)) ∧
    ∃ t, Sys2Proof.core.run 1 (atTop 0xEA 0x00) = .next t ∧ t.read t.pc ∉ mappedBytes :=
  ⟨⟨_, rfl, rfl⟩, _, rfl, by decide⟩

theorem witness_EndedRunsCompletedTheirSteps :
    ∃ t, runUntil (fun u => u.pc == 0x0000) 2 (atTop 0xEA 0x00) = some (.next t) := ⟨_, rfl⟩

end Sys2Proof.Tests
end

section
/-! PROOFS. The outcomes of a step (00_scope.md R10): every operation completes, so a step ends in the one fault exactly
when the byte at pc stands outside the opcode map. -/

namespace Sys2Proof

open Machine Claims

/-- The statements' list of opcode bytes, written out from 30_encoding.md R84, is the first column of the opcode map. -/
theorem mappedBytes_eq : mappedBytes = opcodeMap.map Prod.fst := rfl

theorem lookup_eq_none_iff (b : Byte) : lookup b = none ↔ b ∉ mappedBytes := by
  rw [lookup, List.lookup_eq_none_iff, mappedBytes_eq, List.mem_map]
  push Not
  simp only [bne_iff_ne, ne_comm]

theorem mem_mappedBytes_of_lookup {b : Byte} {e : Entry} (h : lookup b = some e) : b ∈ mappedBytes := by
  by_contra hb
  simp [(lookup_eq_none_iff b).2 hb] at h

/-- No operation faults or is refused: each arm of `exec` answers its next state by definition. -/
theorem exec_completes (i : Instr) (s : State) : ∃ t, exec i s = .next t := by
  cases i <;> exact ⟨_, rfl⟩

/-- Settles O19: the case split over the 35 instructions is `exec_completes`. -/
theorem everyInstructionCompletes : Obligations.EveryInstructionCompletes := exec_completes

/-- Settles O18: of the two cases of a step, the one without an entry is the fault, and the one with an entry runs an
operation, which completes. -/
theorem stepCompletesExactlyOnMapped : Obligations.StepCompletesExactlyOnMapped := by
  intro s
  rcases step_cases s with ⟨unmapped, hfault⟩ | ⟨e, mapped, _, hexec⟩
  · exact .inr ⟨(lookup_eq_none_iff _).1 unmapped, hfault⟩
  · exact .inl ⟨mem_mappedBytes_of_lookup mapped, hexec ▸ exec_completes _ _⟩

end Sys2Proof
end

section
/-! PROOFS. What an operation does, as data: it reads the state to find one of ten effects, and the effect changes the
state. Which flags and registers change, and where pc goes, is then read off the effect, and in `effectOf` alone can a
flag be read (10_state.md R27). -/

namespace Sys2Proof.Machine

/-- The ten changes an operation can make, with the values already computed. -/
inductive Effect where
  | putZN (r : Reg) (v : Byte)
  | modifyMem (a : Word) (v : Byte)
  | store (a : Word) (v : Byte)
  | putReg (r : Reg) (v : Byte)
  | compare (r m : Byte)
  | putFlag (f : Flag) (v : Bool)
  | jump (w : Word)
  | call (w : Word)
  | ret
  | nothing

def Effect.run : Effect → State → State
  | .putZN r v, s => opPutZN r v s
  | .modifyMem a v, s => (s.write a v).setZN v
  | .store a v, s => s.write a v
  | .putReg r v, s => s.setReg r v
  | .compare r m, s => s.setCompare r m
  | .putFlag f v, s => s.setFlag f v
  | .jump w, s => s.setPc w
  | .call w, s => opCall w s
  | .ret, s => opReturn s
  | .nothing, s => s

/-- The effect of an instruction in the state it runs in (pc past it): all that its operation reads is read here. -/
def effectOf : Instr → State → Effect
  | .andImm v, s => .putZN .ac (s.ac &&& v)
  | .andZp z, s => .putZN .ac (s.ac &&& s.read (eaZp z))
  | .andAbs a, s => .putZN .ac (s.ac &&& s.read (eaAbs a))
  | .oraImm v, s => .putZN .ac (s.ac ||| v)
  | .oraZp z, s => .putZN .ac (s.ac ||| s.read (eaZp z))
  | .oraAbs a, s => .putZN .ac (s.ac ||| s.read (eaAbs a))
  | .ldaImm v, _ => .putZN .ac v
  | .ldaZp z, s => .putZN .ac (s.read (eaZp z))
  | .ldaZpx z, s => .putZN .ac (s.read (eaZpx z s))
  | .ldxImm v, _ => .putZN .x v
  | .ldxZp z, s => .putZN .x (s.read (eaZp z))
  | .ldxZpy z, s => .putZN .x (s.read (eaZpy z s))
  | .ldyImm v, _ => .putZN .y v
  | .ldyZp z, s => .putZN .y (s.read (eaZp z))
  | .ldyZpx z, s => .putZN .y (s.read (eaZpx z s))
  | .tax, s => .putZN .x s.ac
  | .tay, s => .putZN .y s.ac
  | .inx, s => .putZN .x (inc8 s.x)
  | .dex, s => .putZN .x (dec8 s.x)
  | .iny, s => .putZN .y (inc8 s.y)
  | .dey, s => .putZN .y (dec8 s.y)
  | .incAbs a, s => .modifyMem (eaAbs a) (inc8 (s.read (eaAbs a)))
  | .decAbs a, s => .modifyMem (eaAbs a) (dec8 (s.read (eaAbs a)))
  | .stxAbs a, s => .store (eaAbs a) s.x
  | .styAbs a, s => .store (eaAbs a) s.y
  | .txs, s => .putReg .sp s.x
  | .cmpAbx a, s => .compare s.ac (s.read (eaAbx a s))
  | .cld, _ => .putFlag .d false
  | .sei, _ => .putFlag .i true
  | .jmpAbs a, _ => .jump (eaAbs a)
  | .beqRel d, s => .jump (if s.flag .z then eaRel d s else s.pc)
  | .bneRel d, s => .jump (if !s.flag .z then eaRel d s else s.pc)
  | .jsrAbs a, _ => .call (eaAbs a)
  | .rts, _ => .ret
  | .nop, _ => .nothing

theorem exec_eq_effect (i : Instr) (s : State) : exec i s = .next ((effectOf i s).run s) := by
  cases i <;> rfl

/-! ### What an effect writes -/

/-- The flags an effect writes. -/
def Effect.flags : Effect → List Flag
  | .putZN _ _ | .modifyMem _ _ => [.z, .n]
  | .compare _ _ => [.c, .z, .n]
  | .putFlag f _ => [f]
  | .store _ _ | .putReg _ _ | .jump _ | .call _ | .ret | .nothing => []

/-- The registers an effect writes. -/
def Effect.regs : Effect → List Reg
  | .putZN r _ | .putReg r _ => [r]
  | .call _ | .ret => [.sp]
  | .modifyMem _ _ | .store _ _ | .compare _ _ | .putFlag _ _ | .jump _ | .nothing => []

/-- Whether an effect sets pc. -/
def Effect.transfers : Effect → Bool
  | .jump _ | .call _ | .ret => true
  | _ => false

theorem Effect.run_flag_of_not_mem {x : Effect} {f : Flag} (s : State) (hf : f ∉ x.flags) :
    (x.run s).flag f = s.flag f := by
  cases x with
  | putZN | modifyMem | compare =>
    simp only [Effect.flags, List.mem_cons, not_or] at hf
    simp [Effect.run, hf]
  | putFlag g => simp [Effect.run, Ne.symm (List.ne_of_not_mem_cons hf)]
  | store | putReg | jump | call | nothing => simp [Effect.run]
  | ret => simp [Effect.run, opReturn_eq]

/-- A flag that an effect writes takes its value from the effect alone. -/
theorem Effect.run_flag_of_mem {x : Effect} {f : Flag} (s u : State) (hf : f ∈ x.flags) :
    (x.run s).flag f = (x.run u).flag f := by
  cases x with
  | putZN | modifyMem =>
    rcases List.mem_pair.1 hf with rfl | rfl <;> simp [Effect.run]
  | compare =>
    rcases List.mem_cons.1 hf with rfl | hf
    · simp [Effect.run]
    · rcases List.mem_pair.1 hf with rfl | rfl <;> simp [Effect.run]
  | putFlag => rw [List.mem_singleton.1 hf]; simp [Effect.run]
  | store | putReg | jump | call | ret | nothing => cases hf

theorem Effect.run_reg_of_not_mem {x : Effect} {r : Reg} (s : State) (hr : r ∉ x.regs) :
    (x.run s).reg r = s.reg r := by
  cases x with
  | putZN q | putReg q => simp [Effect.run, Ne.symm (List.ne_of_not_mem_cons hr)]
  | modifyMem | store | compare | putFlag | jump | nothing => simp [Effect.run]
  | call => cases r with
    | sp => simp [Effect.regs] at hr
    | ac | x | y => rfl
  | ret => simp [Effect.run, opReturn_eq, Ne.symm (List.ne_of_not_mem_cons hr)]

theorem Effect.run_pc_of_not_transfers {x : Effect} (s : State) (hx : x.transfers = false) :
    (x.run s).pc = s.pc := by
  cases x with
  | putZN | modifyMem | store | putReg | compare | putFlag | nothing => simp [Effect.run]
  | jump | call | ret => cases hx

/-! ### The entries of the dispatch table -/

/-- The flags an entry's operation writes: the "written by" column of 10_state.md R27. -/
def writtenFlags : Entry → List Flag
  | .stxAbs | .styAbs | .txs | .jmpAbs | .jsrAbs | .rts | .beqRel | .bneRel | .nop => []
  | .cld => [.d]
  | .sei => [.i]
  | .cmpAbx => [.c, .z, .n]
  | _ => [.z, .n]

/-- The registers an entry's operation writes (10_state.md R22 to R25). -/
def writtenRegs : Entry → List Reg
  | .andImm | .andZp | .andAbs | .oraImm | .oraZp | .oraAbs | .ldaImm | .ldaZp | .ldaZpx => [.ac]
  | .ldxImm | .ldxZp | .ldxZpy | .tax | .inx | .dex => [.x]
  | .ldyImm | .ldyZp | .ldyZpx | .tay | .iny | .dey => [.y]
  | .txs | .jsrAbs | .rts => [.sp]
  | _ => []

/-- The entries whose operation sets pc (10_state.md R21). -/
def transfersControl : Entry → Bool
  | .jmpAbs | .jsrAbs | .rts | .beqRel | .bneRel => true
  | _ => false

theorem effectOf_flags (i : Instr) (s : State) : (effectOf i s).flags = writtenFlags i.entry := by
  cases i <;> rfl

theorem effectOf_regs (i : Instr) (s : State) : (effectOf i s).regs = writtenRegs i.entry := by
  cases i <;> rfl

theorem effectOf_transfers (i : Instr) (s : State) : (effectOf i s).transfers = transfersControl i.entry := by
  cases i <;> rfl

/-! ### The step as an effect -/

/-- The state after the instruction of entry `e` at pc. -/
def afterInstr (e : Entry) (s : State) : State :=
  (effectOf (assemble e (operandsAt e s)) (pastInstr e s)).run (pastInstr e s)

theorem step_eq_afterInstr {s : State} {e : Entry} (h : lookup (s.read s.pc) = some e) :
    step s = .next (afterInstr e s) := by
  rw [step_of_mapped h, exec_eq_effect, afterInstr]

/-- A completed step ran the row of the opcode map that the byte at pc selects. -/
theorem step_next_afterInstr {s t : State} (h : step s = .next t) :
    ∃ e, (s.read s.pc, e) ∈ opcodeMap ∧ t = afterInstr e s := by
  obtain ⟨e, hbyte, hexec⟩ := step_next h
  obtain ⟨⟨b, e'⟩, hfind, rfl⟩ := Option.map_eq_some_iff.1 hbyte
  have hentry : e' = e := by simpa using List.find?_some hfind
  rw [exec_eq_effect] at hexec
  cases hexec
  exact ⟨e, hentry ▸ List.mem_of_find?_eq_some hfind, rfl⟩

theorem next_eq_afterInstr {s t : State} {b : Byte} {e : Entry} (h : step s = .next t) (hb : s.read s.pc = b)
    (hrow : lookup b = some e) : t = afterInstr e s := by
  have hstep := step_eq_afterInstr (s := s) (hb ▸ hrow)
  rw [h] at hstep
  exact Host.Outcome.next.inj hstep

theorem afterInstr_flag {e : Entry} {f : Flag} (s : State) (hf : f ∉ writtenFlags e) :
    (afterInstr e s).flag f = s.flag f := by
  rw [afterInstr, Effect.run_flag_of_not_mem _ (by rwa [effectOf_flags, entry_assemble]), pastInstr, State.setPc_flag]

theorem afterInstr_reg {e : Entry} {r : Reg} (s : State) (hr : r ∉ writtenRegs e) :
    (afterInstr e s).reg r = s.reg r := by
  rw [afterInstr, Effect.run_reg_of_not_mem _ (by rwa [effectOf_regs, entry_assemble]), pastInstr, State.setPc_reg]

theorem afterInstr_pc {e : Entry} (s : State) (he : transfersControl e = false) :
    (afterInstr e s).pc = s.pc + BitVec.ofNat 16 (1 + e.format.operandCount) := by
  rw [afterInstr, Effect.run_pc_of_not_transfers _ (by rwa [effectOf_transfers, entry_assemble]), pastInstr,
    State.setPc_pc]

/-! ### The operand bytes at pc -/

theorem operandsAt_of_count_one {e : Entry} (s : State) (he : e.format.operandCount = 1) :
    operandsAt e s = [s.read (s.pc + 1)] := by
  simp [operandsAt, he]

theorem operandsAt_of_count_two {e : Entry} (s : State) (he : e.format.operandCount = 2) :
    operandsAt e s = [s.read (s.pc + 1), s.read (s.pc + 2)] := by
  simp [operandsAt, he, BitVec.add_assoc]

/-! ### Two states that differ in SR only -/

/-- Of all flags an operation reads Z alone, in BEQ and BNE (44_control_transfer.md R163, R164). -/
theorem effectOf_withSr (i : Instr) {s : State} {b : Byte} (hz : getFlag b .z = s.flag .z) :
    effectOf i { s with sr := b } = effectOf i s := by
  cases i with
  | beqRel d | bneRel d => simp only [effectOf, State.flag_withSr, hz]; rfl
  | _ => rfl

/-- An effect does not let SR flow into any other part of the state. -/
theorem Effect.run_withSr (x : Effect) (s : State) (b : Byte) :
    x.run { s with sr := b } = { x.run s with sr := (x.run { s with sr := b }).sr } := by
  cases x with
  | putZN r | putReg r => cases r <;> rfl
  | modifyMem | store | compare | putFlag | jump | call | ret | nothing => rfl

theorem fetchBytes_withSr (n : Nat) (s : State) (b : Byte) :
    (State.fetchBytes n { s with sr := b }).1 = (State.fetchBytes n s).1 := by
  induction n generalizing s with
  | zero => rfl
  | succ n ih => exact congrArg (s.read s.pc :: ·) (ih (s.setPc (s.pc + 1)))

theorem operandsAt_withSr (e : Entry) (s : State) (b : Byte) : operandsAt e { s with sr := b } = operandsAt e s :=
  fetchBytes_withSr _ (s.setPc (s.pc + 1)) b

/-- States with the same Z that differ in SR only have the same instruction with the same effect at pc. -/
theorem afterInstr_withSr (e : Entry) {s : State} {b : Byte} (hz : getFlag b .z = s.flag .z) :
    afterInstr e { s with sr := b } =
      (effectOf (assemble e (operandsAt e s)) (pastInstr e s)).run { pastInstr e s with sr := b } := by
  rw [afterInstr, operandsAt_withSr]
  exact congrArg (Effect.run · _) (effectOf_withSr _ (s := pastInstr e s) hz)

end Sys2Proof.Machine
end

section
/-! PROOFS. The statements of 10_state.md: flags as bits of SR, and what a step reads and writes of the registers. -/

namespace Sys2Proof

open Machine Claims

/-- Settles O3: a flag is a bit by definition, and a write is followed by `getFlag_putFlag`. -/
theorem flagsAreBitsOfStatusByte : Obligations.FlagsAreBitsOfStatusByte := by
  refine ⟨fun s => ⟨rfl, rfl, rfl, rfl, rfl, rfl, rfl, rfl⟩, fun s f v => ⟨?_, fun g hg => ?_, ?_⟩, fun _ _ => rfl⟩
  · rw [State.setFlag_flag, if_pos rfl]
  · rw [State.setFlag_flag, if_neg (Ne.symm (List.ne_of_not_mem_cons hg))]
  · exact ⟨fun r _ => State.setFlag_reg s f v r, rfl, fun _ _ => rfl⟩

/-- A register that a step changed is one that the entry at pc writes, so pc holds the byte of such an entry. -/
theorem byte_mem_of_reg_changed {s : State} {e : Entry} {r : Reg} {bytes : List Byte}
    (table : ∀ row ∈ opcodeMap, r ∈ writtenRegs row.2 → row.1 ∈ bytes) (row : (s.read s.pc, e) ∈ opcodeMap)
    (changed : (afterInstr e s).reg r ≠ s.reg r) : s.read s.pc ∈ bytes := by
  refine table _ row (not_not.1 fun hr => changed ?_)
  exact afterInstr_reg s hr

/-- Settles O37: the rows of the opcode map say which bytes' entries write each register. -/
theorem stepRegisterWriters : Obligations.StepRegisterWriters := by
  intro s t h
  obtain ⟨e, row, rfl⟩ := step_next_afterInstr h
  exact ⟨byte_mem_of_reg_changed (r := .sp) (by decide) row, byte_mem_of_reg_changed (r := .ac) (by decide) row,
    byte_mem_of_reg_changed (r := .x) (by decide) row, byte_mem_of_reg_changed (r := .y) (by decide) row⟩

/-! ### The flags -/

theorem afterInstr_cld_flag_d (s : State) : (afterInstr .cld s).flag .d = false := by
  simp [afterInstr, assemble, effectOf, Effect.run]

theorem afterInstr_sei_flag_i (s : State) : (afterInstr .sei s).flag .i = true := by
  simp [afterInstr, assemble, effectOf, Effect.run]

/-- Settles O36: which entries write a flag is read off the 35 rows of the opcode map; of CLD and SEI it is known besides
which value they write. -/
theorem stepFlagWriters : Obligations.StepFlagWriters := by
  intro s t h
  obtain ⟨e, row, rfl⟩ := step_next_afterInstr h
  have never : ∀ r ∈ opcodeMap, .v ∉ writtenFlags r.2 ∧ .u ∉ writtenFlags r.2 ∧ .b ∉ writtenFlags r.2 := by decide
  have writesD : ∀ r ∈ opcodeMap, .d ∈ writtenFlags r.2 → r.1 = 0xD8 ∧ r.2 = .cld := by decide
  have writesI : ∀ r ∈ opcodeMap, .i ∈ writtenFlags r.2 → r.1 = 0x78 ∧ r.2 = .sei := by decide
  have writesC : ∀ r ∈ opcodeMap, .c ∈ writtenFlags r.2 → r.1 = 0xDD := by decide
  have keepsZN : ∀ r ∈ opcodeMap,
      r.1 ∈ [(0x8E : Byte), 0x8C, 0x9A, 0x4C, 0x20, 0x60, 0xF0, 0xD0, 0xEA, 0xD8, 0x78] →
      .z ∉ writtenFlags r.2 ∧ .n ∉ writtenFlags r.2 := by decide
  obtain ⟨hv, hu, hb⟩ := never _ row
  refine ⟨afterInstr_flag s hv, afterInstr_flag s hu, afterInstr_flag s hb, fun hset => ?_, fun hset => ?_,
    fun hne => afterInstr_flag s fun hd => hne (writesD _ row hd).1,
    fun hne => afterInstr_flag s fun hi => hne (writesI _ row hi).1,
    fun hne => afterInstr_flag s fun hc => hne (writesC _ row hc), fun hmem => ?_⟩
  · by_cases hd : .d ∈ writtenFlags e
    · have hcld : e = .cld := (writesD _ row hd).2
      rw [hcld, afterInstr_cld_flag_d] at hset
      cases hset
    · rwa [afterInstr_flag s hd] at hset
  · by_cases hi : .i ∈ writtenFlags e
    · have hsei : e = .sei := (writesI _ row hi).2
      rw [hsei, afterInstr_sei_flag_i]
    · rwa [afterInstr_flag s hi]
  · obtain ⟨hz, hn⟩ := keepsZN _ row hmem
    exact ⟨afterInstr_flag s hz, afterInstr_flag s hn⟩

/-- Settles O39: both states run the same instruction with the same effect, which writes a flag from its own values or
keeps it. -/
theorem onlyZeroFlagIsRead : Obligations.OnlyZeroFlagIsRead := by
  intro s b hz
  cases h : lookup (s.read s.pc) with
  | none => exact .inr ⟨_, _, _, step_of_unmapped h, step_of_unmapped h⟩
  | some e =>
    refine .inl ⟨_, _, step_eq_afterInstr h, step_eq_afterInstr h, ?_⟩
    rw [afterInstr_withSr e hz]
    refine ⟨Effect.run_withSr _ (pastInstr e s) b, fun f => ?_⟩
    by_cases hf : f ∈ (effectOf (assemble e (operandsAt e s)) (pastInstr e s)).flags
    · exact .inl (Effect.run_flag_of_mem _ _ hf)
    · exact .inr ⟨Effect.run_flag_of_not_mem _ hf, Effect.run_flag_of_not_mem _ hf⟩

/-! ### The program counter -/

/-- Bytes whose entries have `n` operand bytes and do not set pc advance it past the instruction. -/
theorem pc_of_byte_mem {s : State} {e : Entry} {n : Nat} {bytes : List Byte}
    (table : ∀ row ∈ opcodeMap, row.1 ∈ bytes → transfersControl row.2 = false ∧ row.2.format.operandCount = n)
    (row : (s.read s.pc, e) ∈ opcodeMap) (hb : s.read s.pc ∈ bytes) :
    (afterInstr e s).pc = s.pc + BitVec.ofNat 16 (1 + n) := by
  obtain ⟨he, hn⟩ := table _ row hb
  rw [afterInstr_pc s he, hn]

theorem afterInstr_jmpAbs_pc (s : State) : (afterInstr .jmpAbs s).pc = operand16At s := by
  rw [afterInstr, operandsAt_of_count_two s rfl]
  rfl

theorem afterInstr_jsrAbs_pc (s : State) : (afterInstr .jsrAbs s).pc = operand16At s := by
  rw [afterInstr, operandsAt_of_count_two s rfl]
  rfl

theorem afterInstr_rts_pc (s : State) : (afterInstr .rts s).pc =
    joinBytes (s.read (stackAddr (s.sp + 2))) (s.read (stackAddr (s.sp + 1))) + 1 := by
  simp [afterInstr, assemble, effectOf, Effect.run, opReturn_eq, pastInstr]

/-- The relative target in numbers (40_step_and_addressing.md R111). -/
theorem eaRel_toNat (d : Byte) (s : State) : (eaRel d s).toNat = branchTarget s.pc.toNat d.toNat := by
  have := d.isLt
  rw [eaRel, BitVec.toNat_add, sext16_toNat, branchTarget]
  split <;> omega

theorem afterInstr_beqRel_pc (s : State) : (afterInstr .beqRel s).pc.toNat =
    if s.flag .z then branchTarget (s.pc + 2).toNat (s.read (s.pc + 1)).toNat else (s.pc + 2).toNat := by
  rw [afterInstr, operandsAt_of_count_one s rfl]
  cases h : s.flag .z <;>
    simp [assemble, effectOf, Effect.run, pastInstr, h, eaRel_toNat, Entry.format, Format.operandCount]

theorem afterInstr_bneRel_pc (s : State) : (afterInstr .bneRel s).pc.toNat =
    if s.flag .z then (s.pc + 2).toNat else branchTarget (s.pc + 2).toNat (s.read (s.pc + 1)).toNat := by
  rw [afterInstr, operandsAt_of_count_one s rfl]
  cases h : s.flag .z <;>
    simp [assemble, effectOf, Effect.run, pastInstr, h, eaRel_toNat, Entry.format, Format.operandCount]

/-- Settles O35: the first three lists hold the entries that do not set pc, by their number of operand bytes; the other
bytes have one entry each, whose pc is known. -/
theorem stepAdvancesPc : Obligations.StepAdvancesPc := by
  intro s t h
  obtain ⟨e, row, ht⟩ := step_next_afterInstr h
  refine ⟨fun hb => ?_, fun hb => ?_, fun hb => ?_, fun hb => ?_, fun hb => ?_, fun hb => ?_, fun hb => ?_⟩
  · exact ht ▸ pc_of_byte_mem (n := 0) (by decide) row hb
  · exact ht ▸ pc_of_byte_mem (n := 1) (by decide) row hb
  · exact ht ▸ pc_of_byte_mem (n := 2) (by decide) row hb
  · rcases List.mem_pair.1 hb with hb | hb
    · rw [next_eq_afterInstr (e := .jmpAbs) h hb rfl, afterInstr_jmpAbs_pc]
    · rw [next_eq_afterInstr (e := .jsrAbs) h hb rfl, afterInstr_jsrAbs_pc]
  · rw [next_eq_afterInstr (e := .rts) h hb rfl, afterInstr_rts_pc]
  · rw [next_eq_afterInstr (e := .beqRel) h hb rfl, afterInstr_beqRel_pc]
  · rw [next_eq_afterInstr (e := .bneRel) h hb rfl, afterInstr_bneRel_pc]

end Sys2Proof
end

section
/-! PROOFS. The statements of 20_memory.md: a byte of memory keeps what was last written to it, and a push is one write
to the stack page and one decrement of SP. -/

namespace Sys2Proof

open Machine Claims

/-! ### Reading and writing a byte -/

theorem reset_read (a : Word) : State.reset.read a = 0x00 := rfl

theorem read_write_same (s : State) (a : Word) (v : Byte) : (s.write a v).read a = v := by
  rw [State.read_write, if_pos rfl]

theorem memKept_write (s : State) (a : Word) (v : Byte) : MemKept [a] s (s.write a v) := by
  intro c hc
  rw [State.read_write, if_neg (Ne.symm (List.ne_of_not_mem_cons hc))]

theorem regsKept_write (s : State) (a : Word) (v : Byte) : RegsKept [] s (s.write a v) :=
  fun r _ => State.write_reg s a v r

/-- Settles O4: a host write is the same operation by definition, and the rest is read-over-write (`State.read_write`)
with its frame. -/
theorem readReturnsLastWrite : Obligations.ReadReturnsLastWrite :=
  ⟨reset_read, fun _ _ _ => rfl,
    fun s a v => ⟨read_write_same s a v, memKept_write s a v, regsKept_write s a v, rfl, rfl⟩⟩

/-! ### `Push` -/

/-- Decrementing a byte modulo 256, in numbers. -/
theorem toNat_pred (b : Byte) : (b - 1).toNat = (b.toNat + 255) % 256 := by
  rw [BitVec.toNat_sub, Nat.add_comm]
  rfl

theorem push_eq (s : State) (b : Byte) : s.push b = (s.write (stackAddr s.sp) b).setReg .sp (s.sp - 1) := rfl

theorem read_push_same (s : State) (b : Byte) : (s.push b).read (stackAddr s.sp) = b := by
  rw [State.push_read, if_pos rfl]

theorem memKept_push (s : State) (b : Byte) : MemKept [stackAddr s.sp] s (s.push b) := by
  intro c hc
  rw [push_eq, State.setReg_read, memKept_write s _ b c hc]

theorem regsKept_push (s : State) (b : Byte) : RegsKept [.sp] s (s.push b) := by
  intro r hr
  rw [push_eq, State.setReg_reg, if_neg (Ne.symm (List.ne_of_not_mem_cons hr)), State.write_reg]

/-- Settles O5: the byte goes to the stack address of the old SP, `stackAddr s.sp`; with SP = 0x00 that is 0x0100, and
SP wraps to 0xFF. -/
theorem pushStoresThenDecrements : Obligations.PushStoresThenDecrements := by
  refine ⟨fun s b => ⟨stackAddr s.sp, stackAddr_toNat s.sp, read_push_same s b, memKept_push s b, ?_,
    regsKept_push s b, rfl, fun f _ => State.push_flag s b f⟩, fun s b hsp => ⟨?_, ?_⟩⟩
  · rw [State.push_sp, toNat_pred]
  · have bottom : stackAddr s.sp = 0x0100 := by rw [hsp]; rfl
    rw [← bottom, read_push_same]
  · rw [State.push_sp, hsp]
    rfl

end Sys2Proof
end

section
/-! PROOFS. The statements of 30_encoding.md: what the decoder reads from the opcode byte and what from the bytes after
it. -/

namespace Sys2Proof

/-! ### What a decoded byte list was -/

/-- A byte list decodes exactly when its opcode byte has an entry (30_encoding.md R82) and the entry's operand bytes are
there; it is then that entry assembled from those bytes, with the bytes after them left over. -/
theorem decode_cons_eq_ok_iff {b : Byte} {o r : List Byte} {i : Instr} :
    decode (b :: o) = .ok (i, r) ↔ ∃ e, lookup b = some e ∧ e.format.operandCount ≤ o.length ∧
      i = assemble e (o.take e.format.operandCount) ∧ r = o.drop e.format.operandCount := by
  cases h : lookup b with
  | none => simp [decode, h]
  | some e =>
    by_cases hlen : o.length < e.format.operandCount
    · simp [decode, h, hlen]
    · simp [decode, h, hlen, Nat.not_lt.1 hlen, eq_comm]

theorem lookup_of_decode {b : Byte} {o r : List Byte} {i : Instr} (h : decode (b :: o) = .ok (i, r)) :
    lookup b = some i.entry := by
  obtain ⟨e, mapped, _, rfl, _⟩ := decode_cons_eq_ok_iff.1 h
  rw [mapped, entry_assemble]

/-- Decoding consumes the instruction's length (30_encoding.md R80, R81). -/
theorem length_of_decode {b : Byte} {o r : List Byte} {i : Instr} (h : decode (b :: o) = .ok (i, r)) :
    (b :: o).length = i.length + r.length := by
  obtain ⟨e, _, enough, rfl, rfl⟩ := decode_cons_eq_ok_iff.1 h
  rw [Instr.length, entry_assemble, List.length_cons, List.length_drop]
  omega

/-! ### The opcode byte -/

/-- Settles O14: both entries are what the table has for the one opcode byte, and an instruction's length is read from
its entry. -/
theorem opcodeByteAloneSelects : Obligations.OpcodeByteAloneSelects := by
  intro b o p ro rp i j hi hj
  have entries : i.entry = j.entry :=
    Option.some.inj ((lookup_of_decode hi).symm.trans (lookup_of_decode hj))
  exact ⟨entries, by rw [Instr.length, Instr.length, entries], length_of_decode hi⟩

end Sys2Proof
end

section
/-! PROOFS. Which bytes of memory an operation writes (40_step_and_addressing.md R114), read off its effect. -/

namespace Sys2Proof.Machine

open Claims

/-- The addresses an effect writes in the state it runs in. -/
def Effect.addrs : Effect → State → List Word
  | .modifyMem a _, _ | .store a _, _ => [a]
  | .call _, s => [stackAddr s.sp, stackAddr (s.sp - 1)]
  | .putZN _ _, _ | .putReg _ _, _ | .compare _ _, _ | .putFlag _ _, _ | .jump _, _ | .ret, _ | .nothing, _ => []

theorem Effect.memKept_run (x : Effect) (s : State) : MemKept (x.addrs s) s (x.run s) := by
  intro c hc
  cases x with
  | modifyMem a | store a => simp [Effect.run, Ne.symm (List.ne_of_not_mem_cons hc)]
  | call =>
    simp only [Effect.addrs, List.mem_cons, not_or] at hc
    obtain ⟨hhigh, hlow, _⟩ := hc
    rw [Effect.run, opCall_read, if_neg (Ne.symm hlow), if_neg (Ne.symm hhigh)]
  | putZN | putReg | compare | putFlag | jump | nothing => simp [Effect.run]
  | ret => simp [Effect.run, opReturn_eq]

/-- The addresses the instruction of entry `e` at pc writes (R114). -/
def writtenAddrs : Entry → State → List Word
  | .incAbs, s | .decAbs, s | .stxAbs, s | .styAbs, s => [eaAbs (operand16At s)]
  | .jsrAbs, s => [stackAddr s.sp, stackAddr (s.sp - 1)]
  | _, _ => []

theorem effectOf_addrs (e : Entry) (s : State) :
    (effectOf (assemble e (operandsAt e s)) (pastInstr e s)).addrs (pastInstr e s) = writtenAddrs e s := by
  cases e with
  | incAbs | decAbs | stxAbs | styAbs => rw [operandsAt_of_count_two s rfl]; rfl
  | _ => rfl

theorem memKept_afterInstr (e : Entry) (s : State) : MemKept (writtenAddrs e s) s (afterInstr e s) :=
  effectOf_addrs e s ▸ Effect.memKept_run _ (pastInstr e s)

end Sys2Proof.Machine
end

section
/-! PROOFS. The statements of 40_step_and_addressing.md: fetching, effective addresses, `SetZN`, and which steps write
memory. -/

namespace Sys2Proof

open Machine Claims

/-! ### Which steps write memory -/

/-- Settles O38: a changed byte stands at an address that the entry at pc writes, and of the 35 entries only the five
write any. -/
theorem stepMemoryWriters : Obligations.StepMemoryWriters := by
  intro s t h a changed
  obtain ⟨e, row, rfl⟩ := step_next_afterInstr h
  have written : a ∈ writtenAddrs e s := not_not.1 fun ha => changed (memKept_afterInstr e s a ha)
  have storeBytes : ∀ r ∈ opcodeMap, r.2 ∈ [.incAbs, .decAbs, .stxAbs, .styAbs] →
      r.1 ∈ [(0xEE : Byte), 0xCE, 0x8E, 0x8C] := by decide
  have callByte : ∀ r ∈ opcodeMap, r.2 = .jsrAbs → r.1 = 0x20 := by decide
  cases e with
  | incAbs | decAbs | stxAbs | styAbs => exact .inl ⟨storeBytes _ row (by simp), List.mem_singleton.1 written⟩
  | jsrAbs => exact .inr ⟨callByte _ row rfl, List.mem_pair.1 written⟩
  | _ => cases written

/-! ### Fetching -/

theorem onlyPcMoved_setPc (s : State) (w : Word) : OnlyPcMoved s (s.setPc w) :=
  ⟨fun r _ => State.setPc_reg s w r, fun f _ => State.setPc_flag s w f, fun a _ => State.setPc_read s w a⟩

/-- The `k`-th of `n` fetched bytes is the one at pc + `k` modulo 65536. -/
theorem fetchBytes_getElem? {n k : Nat} (hk : k < n) (s : State) :
    (State.fetchBytes n s).1[k]? = some (s.read (s.pc + BitVec.ofNat 16 k)) := by
  induction n generalizing k s with
  | zero => cases hk
  | succ n ih =>
    rw [State.fetchBytes_succ]
    cases k with
    | zero => simp
    | succ k =>
      have address : s.pc + 1 + BitVec.ofNat 16 k = s.pc + BitVec.ofNat 16 (k + 1) := by
        rw [Nat.add_comm k, BitVec.ofNat_add, BitVec.add_assoc]
        rfl
      rw [List.getElem?_cons_succ, ih (Nat.lt_of_succ_lt_succ hk), State.setPc_read, State.setPc_pc, address]

/-- Settles O7: one fetch is a read and a `setPc`; the bytes of `n` fetches are found by induction on `n`
(`fetchBytes_getElem?`). -/
theorem fetchReadsAscendingBytes : Obligations.FetchReadsAscendingBytes :=
  ⟨fun s => ⟨State.fetch_value s, BitVec.toNat_add s.pc 1, onlyPcMoved_setPc s (s.pc + 1)⟩,
    fun n s => ⟨fetchBytes_length n s, fun _ hk => fetchBytes_getElem? hk s, fetchBytes_state n s⟩⟩

/-! ### Effective addresses -/

/-- Settles O8: an index is added in a byte for the zero page (R107, R108) and in a word for `ABX` (R110), so each sum
wraps at its own width; a relative target is `eaRel_toNat`. -/
theorem effectiveAddressesWrap : Obligations.EffectiveAddressesWrap := by
  intro s b a
  refine ⟨zext16_toNat b, ?_, ?_, rfl, ?_, eaRel_toNat b s⟩
  · rw [eaZpx, zext16_toNat, BitVec.toNat_add]
  · rw [eaZpy, zext16_toNat, BitVec.toNat_add]
  · rw [eaAbx, BitVec.toNat_add, zext16_toNat]

/-! ### `SetZN` -/

theorem setZN_flag_z_iff (s : State) (v : Byte) : (s.setZN v).flag .z = true ↔ v = 0x00 := by
  simp

theorem setZN_flag_n_iff (s : State) (v : Byte) : (s.setZN v).flag .n = true ↔ 0x80 ≤ v.toNat := by
  rw [State.setZN_flag, if_pos rfl]
  exact bit7_iff v

theorem flagsKept_setZN (s : State) (v : Byte) : FlagsKept [.z, .n] s (s.setZN v) := by
  intro f hf
  simp only [List.mem_cons, not_or] at hf
  obtain ⟨hz, hn, _⟩ := hf
  rw [State.setZN_flag, if_neg hn, if_neg hz]

theorem znSet_setZN (s : State) (v : Byte) : ZNSet v s (s.setZN v) :=
  ⟨setZN_flag_z_iff s v, setZN_flag_n_iff s v, flagsKept_setZN s v⟩

/-- Settles O9: Z and N exclude each other because bit 7 of 0x00 is clear. -/
theorem setZNComputesFlags : Obligations.SetZNComputesFlags := by
  intro s v
  refine ⟨znSet_setZN s v, State.setZN_flag s v .n, fun ⟨hz, hn⟩ => ?_, fun r _ => State.setZN_reg s v r, rfl,
    fun _ _ => rfl⟩
  rw [(setZN_flag_z_iff s v).1 hz, setZN_flag_n_iff] at hn
  exact absurd hn (by decide)

end Sys2Proof
end

section
/-! PROOFS. Operations that put a value into a register and set Z and N on it: everything such an operation does, as one
`RegResult`. -/

namespace Sys2Proof

open Machine Claims

/-- `zext_16(b)` is the Word with high byte 0x00 (00_scope.md R6, R7). -/
theorem zext16_eq_joinBytes (b : Byte) : zext16 b = joinBytes 0x00 b := by
  apply BitVec.eq_of_toNat_eq
  rw [zext16_toNat, joinBytes_toNat]
  simp

theorem znSet_opPutZN (r : Reg) (v : Byte) (s : State) : ZNSet v s (opPutZN r v s) := by
  obtain ⟨hz, hn, kept⟩ := znSet_setZN (s.setReg r v) v
  exact ⟨hz, hn, fun f hf => (kept f hf).trans (State.setReg_flag s r v f)⟩

theorem regResult_opPutZN (r : Reg) (v : Byte) (s : State) : RegResult r v s (opPutZN r v s) := by
  refine ⟨?_, znSet_opPutZN r v s, ?_, opPutZN_pc r v s, fun a _ => opPutZN_read r v s a⟩
  · rw [opPutZN_reg, if_pos rfl]
  · exact fun _ hq => Effect.run_reg_of_not_mem (x := .putZN r v) s hq

/-- An instruction with the effect `putZN` completes, and its result is that effect's. -/
theorem exec_regResult {i : Instr} {s : State} {r : Reg} {v : Byte} (h : effectOf i s = .putZN r v) :
    ∃ t, exec i s = .next t ∧ RegResult r v s t := by
  refine ⟨opPutZN r v s, ?_, regResult_opPutZN r v s⟩
  rw [exec_eq_effect, h, Effect.run]

end Sys2Proof
end

section
/-! PROOFS. The statements of 41_logic_compare.md: AND and ORA put a value into AC, CMP writes the flags of a comparison
and nothing else. -/

namespace Sys2Proof

open Machine Claims

/-! ### AND and ORA -/

/-- Settles O20: each form's effect is `putZN` on AC, and the zero-page address is `zext16_eq_joinBytes`. -/
theorem andResult : Obligations.AndResult := by
  refine fun s => ⟨fun v => exec_regResult rfl, fun z => exec_regResult ?_, fun a => exec_regResult rfl⟩
  rw [effectOf, eaZp, zext16_eq_joinBytes]

/-- Settles O21: as for AND, with the other value. -/
theorem oraResult : Obligations.OraResult := by
  refine fun s => ⟨fun v => exec_regResult rfl, fun z => exec_regResult ?_, fun a => exec_regResult rfl⟩
  rw [effectOf, eaZp, zext16_eq_joinBytes]

/-! ### CMP -/

theorem setCompare_flag_c_iff (s : State) (r m : Byte) :
    (s.setCompare r m).flag .c = true ↔ m.toNat ≤ r.toNat := by
  simp

theorem setCompare_flag_z_iff (s : State) (r m : Byte) : (s.setCompare r m).flag .z = true ↔ r = m := by
  simp

/-- N is bit 7 of the difference modulo 256, in numbers (41_logic_compare.md R132). -/
theorem setCompare_flag_n_iff (s : State) (r m : Byte) :
    (s.setCompare r m).flag .n = true ↔ 0x80 ≤ (r.toNat + 256 - m.toNat) % 256 := by
  have difference : (r - m).toNat = (r.toNat + 256 - m.toNat) % 256 := by
    have := m.isLt
    rw [BitVec.toNat_sub]
    omega
  rw [State.setCompare_flag, if_pos rfl, ← difference]
  exact bit7_iff (r - m)

theorem flagsKept_setCompare (s : State) (r m : Byte) : FlagsKept [.c, .z, .n] s (s.setCompare r m) :=
  fun _ hf => Effect.run_flag_of_not_mem (x := .compare r m) s hf

/-- Settles O22: CMP's effect compares AC with the byte at the operand plus X, which `zext16_eq_joinBytes` widens to a
Word. -/
theorem cmpResult : Obligations.CmpResult := by
  intro s a
  refine ⟨s.read (eaAbx a s), s.setCompare s.ac (s.read (eaAbx a s)), ?_, exec_eq_effect (.cmpAbx a) s,
    setCompare_flag_c_iff s _ _, setCompare_flag_z_iff s _ _, setCompare_flag_n_iff s _ _,
    flagsKept_setCompare s _ _, fun r _ => State.setCompare_reg s _ _ r, rfl, fun _ _ => rfl⟩
  rw [eaAbx, zext16_eq_joinBytes]

end Sys2Proof
end

section
/-! PROOFS. The statements of 42_incdec.md: INC and DEC change a byte of memory, INX, DEX, INY and DEY a register, each
by 1 modulo 256. -/

namespace Sys2Proof

open Machine Claims

/-! ### One up and one down modulo 256 (40_step_and_addressing.md R116) -/

theorem inc8_eq_ofNat (b : Byte) : inc8 b = BitVec.ofNat 8 (b.toNat + 1) :=
  BitVec.eq_of_toNat_eq (BitVec.toNat_add b 1)

theorem dec8_eq_ofNat (b : Byte) : dec8 b = BitVec.ofNat 8 (b.toNat + 255) :=
  BitVec.eq_of_toNat_eq (toNat_pred b)

/-! ### INC and DEC -/

theorem memResult_write_setZN (a : Word) (v : Byte) (s : State) : MemResult a v s ((s.write a v).setZN v) := by
  refine ⟨?_, znSet_setZN (s.write a v) v, regsKept_write s a v, rfl, memKept_write s a v⟩
  rw [State.setZN_read, read_write_same]

/-- An instruction with the effect `modifyMem` completes, and its result is that effect's. -/
theorem exec_memResult {i : Instr} {s : State} {a : Word} {v : Byte} (h : effectOf i s = .modifyMem a v) :
    ∃ t, exec i s = .next t ∧ MemResult a v s t := by
  refine ⟨(s.write a v).setZN v, ?_, memResult_write_setZN a v s⟩
  rw [exec_eq_effect, h, Effect.run]

/-- Settles O23: both effects are `modifyMem` at the effective address, storing the byte there changed by `inc8` or
`dec8`. -/
theorem memoryIncDecResult : Obligations.MemoryIncDecResult := by
  intro s a
  rw [← inc8_eq_ofNat, ← dec8_eq_ofNat]
  exact ⟨exec_memResult rfl, exec_memResult rfl⟩

/-! ### INX, DEX, INY and DEY -/

/-- Settles O24: each effect is `putZN` on the index register, of its value changed by `inc8` or `dec8`. -/
theorem indexIncDecResult : Obligations.IndexIncDecResult := by
  intro s
  simp only [← inc8_eq_ofNat, ← dec8_eq_ofNat]
  exact ⟨exec_regResult rfl, exec_regResult rfl, exec_regResult rfl, exec_regResult rfl⟩

end Sys2Proof
end

section
/-! PROOFS. The statements of 43_load_store_transfer.md: a load or a transfer to an index register is the effect `putZN`,
a store the effect `store`, and TXS the effect `putReg`. -/

namespace Sys2Proof

open Machine Claims

/-! ### LDA, LDX and LDY -/

/-- A load from the zero page: the effective address is widened by `zext16`, that is, its high byte is 0x00. -/
theorem exec_regResult_zeroPage {i : Instr} {s : State} {r : Reg} {b : Byte}
    (h : effectOf i s = .putZN r (s.read (zext16 b))) :
    ∃ t, exec i s = .next t ∧ RegResult r (s.read (joinBytes 0x00 b)) s t := by
  rw [zext16_eq_joinBytes] at h
  exact exec_regResult h

/-- Settles O25: each form's effect is `putZN` on AC, of the operand or of the zero-page byte it selects. -/
theorem ldaResult : Obligations.LdaResult := fun _ =>
  ⟨fun _ => exec_regResult rfl, fun _ => exec_regResult_zeroPage rfl, fun _ => exec_regResult_zeroPage rfl⟩

/-- Settles O26: as for LDA, on X and indexed by Y. -/
theorem ldxResult : Obligations.LdxResult := fun _ =>
  ⟨fun _ => exec_regResult rfl, fun _ => exec_regResult_zeroPage rfl, fun _ => exec_regResult_zeroPage rfl⟩

/-- Settles O27: as for LDA, on Y. -/
theorem ldyResult : Obligations.LdyResult := fun _ =>
  ⟨fun _ => exec_regResult rfl, fun _ => exec_regResult_zeroPage rfl, fun _ => exec_regResult_zeroPage rfl⟩

/-! ### STX and STY -/

/-- An instruction with the effect `store` completes, writes the one byte and changes nothing else. -/
theorem exec_storeResult {i : Instr} {s : State} {a : Word} {v : Byte} (h : effectOf i s = .store a v) :
    ∃ t, exec i s = .next t ∧ t.read a = v ∧ MemKept [a] s t ∧ RegsKept [] s t ∧ FlagsKept [] s t ∧
      t.pc = s.pc := by
  refine ⟨s.write a v, ?_, read_write_same s a v, memKept_write s a v, regsKept_write s a v,
    fun f _ => State.write_flag s a v f, State.write_pc s a v⟩
  rw [exec_eq_effect, h, Effect.run]

/-- Settles O28: both effects are `store` at the effective address, of X or of Y. -/
theorem storeResult : Obligations.StoreResult := fun _ _ => ⟨exec_storeResult rfl, exec_storeResult rfl⟩

/-! ### TAX, TAY and TXS -/

theorem regsKept_setReg (r : Reg) (v : Byte) (s : State) : RegsKept [r] s (s.setReg r v) :=
  fun _ hq => Effect.run_reg_of_not_mem (x := .putReg r v) s hq

/-- Settles O29: TAX and TAY have the effect `putZN` of AC; TXS has `putReg`, which sets one register and no flag. -/
theorem transferResult : Obligations.TransferResult := by
  refine fun s => ⟨exec_regResult rfl, exec_regResult rfl, s.setReg .sp s.x, exec_eq_effect .txs s, rfl,
    regsKept_setReg .sp s.x s, ?_, State.setReg_pc s .sp s.x, ?_⟩
  · exact fun f _ => State.setReg_flag s .sp s.x f
  · exact fun a _ => State.setReg_read s .sp s.x a

end Sys2Proof
end

section
/-! PROOFS. The statements of 44_control_transfer.md: jumps and branches set pc alone, a call stacks two bytes of pc, and
a return takes them back. -/

namespace Sys2Proof

open Machine Claims

/-! ### JMP, BEQ and BNE -/

/-- An instruction with the effect `jump` completes, sets pc and changes nothing else. -/
theorem exec_jumpResult {i : Instr} {s : State} {w : Word} (h : effectOf i s = .jump w) :
    ∃ t, exec i s = .next t ∧ t.pc = w ∧ OnlyPcMoved s t := by
  refine ⟨s.setPc w, ?_, State.setPc_pc s w, onlyPcMoved_setPc s w⟩
  rw [exec_eq_effect, h, Effect.run]

/-- Settles O30: JMP's effect is `jump` to the operand, which is its effective address. -/
theorem jmpResult : Obligations.JmpResult := fun _ _ => exec_jumpResult rfl

/-- Settles O33: both effects are `jump`, and both choose between the relative target and pc by Z, the other way round. -/
theorem branchResult : Obligations.BranchResult := by
  intro s d
  obtain ⟨t, completes, beqPc, onlyPc⟩ := exec_jumpResult (i := .beqRel d) (s := s) rfl
  obtain ⟨t', completes', bnePc, onlyPc'⟩ := exec_jumpResult (i := .bneRel d) (s := s) rfl
  have zBit : s.flag .z = s.sr.getLsbD 1 := rfl
  refine ⟨⟨t, completes, onlyPc, ?_⟩, t', completes', onlyPc', ?_⟩
  · rw [beqPc, zBit, apply_ite BitVec.toNat, eaRel_toNat]
  · rw [bnePc, zBit]
    cases s.sr.getLsbD 1
    · exact eaRel_toNat d s
    · rfl

/-! ### JSR -/

/-- The two bytes that a call stacks are the address of its last byte. -/
theorem opCall_stackedWord (w : Word) (s : State) :
    joinBytes ((opCall w s).read (stackAddr s.sp)) ((opCall w s).read (stackAddr (s.sp - 1))) = s.pc - 1 := by
  have slots : stackAddr (s.sp - 1) ≠ stackAddr s.sp := stackAddr_pred_ne s.sp
  rw [opCall_read, opCall_read, if_neg slots, if_pos rfl, if_pos rfl, joinBytes_high_low]

theorem regsKept_opCall (w : Word) (s : State) : RegsKept [.sp] s (opCall w s) :=
  fun _ hr => Effect.run_reg_of_not_mem (x := .call w) s hr

theorem memKept_opCall (w : Word) (s : State) :
    MemKept [stackAddr s.sp, stackAddr (s.sp - 1)] s (opCall w s) := Effect.memKept_run (.call w) s

/-- Settles O31: JSR's effect is `call`, whose second push goes to another byte than the first. -/
theorem jsrResult : Obligations.JsrResult := fun s a =>
  ⟨opCall a s, exec_eq_effect (.jsrAbs a) s, opCall_pc a s, opCall_stackedWord a s, opCall_sp a s,
    regsKept_opCall a s, fun f _ => opCall_flag a s f, memKept_opCall a s⟩

/-! ### RTS -/

/-- Settles O32: RTS's effect is `ret`, two pops and a jump; a pop moves SP and nothing else. -/
theorem rtsResult : Obligations.RtsResult := by
  refine fun s => ⟨opReturn s, exec_eq_effect .rts s, ?_, ?_, fun _ hr => Effect.run_reg_of_not_mem (x := .ret) s hr,
    fun _ _ => Effect.run_flag_of_not_mem (x := .ret) s List.not_mem_nil, Effect.memKept_run .ret s⟩
  · rw [opReturn_eq, State.setPc_pc]
  · rw [opReturn_eq, State.setPc_sp, State.setReg_sp, if_pos rfl]

/-! ### A call and its return -/

theorem afterInstr_jsrAbs (s : State) : afterInstr .jsrAbs s = opCall (operand16At s) (s.setPc (s.pc + 3)) := by
  rw [afterInstr, operandsAt_of_count_two s rfl]
  rfl

/-- A return right after a call undoes what the call did to pc and SP, wherever pc stands by then: it pops the slots that
the call filled, and adds the 1 that the call took off. -/
theorem opReturn_opCall (w v : Word) (s : State) :
    opReturn ((opCall w s).setPc v) = ((opCall w s).setReg .sp s.sp).setPc s.pc := by
  have top : s.sp - 2 + 2 = s.sp := BitVec.sub_add_cancel _ _
  have below : s.sp - 2 + 1 = s.sp - 1 := by bv_omega
  rw [opReturn_eq, State.setPc_sp, opCall_sp, top, below, State.setPc_read, State.setPc_read, opCall_stackedWord,
    BitVec.sub_add_cancel]
  rfl

/-- A JSR and then an RTS leave what the JSR left, but for SP, which is back, and pc, which is past the JSR. -/
theorem afterInstr_rts_afterInstr_jsrAbs (s : State) :
    afterInstr .rts (afterInstr .jsrAbs s) = ((afterInstr .jsrAbs s).setReg .sp s.sp).setPc (s.pc + 3) := by
  rw [afterInstr_jsrAbs]
  exact opReturn_opCall _ _ (s.setPc (s.pc + 3))

/-- Settles O40: both steps run the entry of the byte at pc, and by `afterInstr_rts_afterInstr_jsrAbs` what then differs
from the first state is pc and what JSR writes besides SP, the two stacked bytes. -/
theorem callThenReturn : Obligations.CallThenReturn := by
  intro s hcall
  refine ⟨afterInstr .jsrAbs s, step_eq_afterInstr (hcall ▸ rfl), afterInstr_jsrAbs_pc s, ?_,
    fun hret => ⟨_, step_eq_afterInstr (e := .rts) (hret ▸ rfl), ?_⟩⟩
  · rw [afterInstr_jsrAbs, opCall_sp, State.setPc_sp]
  · rw [afterInstr_rts_afterInstr_jsrAbs]
    refine ⟨rfl, rfl, fun r _ => ?_, fun f _ => ?_, fun a ha => ?_⟩
    · rw [State.setPc_reg, State.setReg_reg]
      split
      case isTrue isSp => exact isSp ▸ rfl
      case isFalse notSp => exact afterInstr_reg s fun hr => notSp (List.mem_singleton.1 hr).symm
    · rw [State.setPc_flag, State.setReg_flag, afterInstr_flag s List.not_mem_nil]
    · rw [State.setPc_read, State.setReg_read, memKept_afterInstr .jsrAbs s a ha]

end Sys2Proof
end

section
/-! PROOFS. The statements of 45_flag_nop.md: CLD and SEI have the effect `putFlag`, NOP the effect `nothing`. -/

namespace Sys2Proof

open Machine Claims

/-- D is bit 3 of SR, so 0xF7 has every bit but D (10_state.md R26, 45_flag_nop.md R171). -/
theorem putFlag_d_false (sr : Byte) : putFlag sr .d false = sr &&& 0xF7 := rfl

/-- I is bit 2 of SR, so 0x04 has the bit of I alone (10_state.md R26, 45_flag_nop.md R172). -/
theorem putFlag_i_true (sr : Byte) : putFlag sr .i true = sr ||| 0x04 := rfl

/-- An instruction with the effect `putFlag` completes, writes the one flag and changes nothing else. -/
theorem exec_flagResult {i : Instr} {s : State} {f : Flag} {v : Bool} (h : effectOf i s = .putFlag f v) :
    ∃ t, exec i s = .next t ∧ t.sr = putFlag s.sr f v ∧ FlagsKept [f] s t ∧ RegsKept [] s t ∧ t.pc = s.pc ∧
      MemKept [] s t := by
  refine ⟨s.setFlag f v, ?_, State.setFlag_sr s f v, fun _ hg => Effect.run_flag_of_not_mem (x := .putFlag f v) s hg,
    fun r _ => State.setFlag_reg s f v r, State.setFlag_pc s f v, fun a _ => State.setFlag_read s f v a⟩
  rw [exec_eq_effect, h, Effect.run]

/-- Settles O34: NOP's effect leaves the state as it is; CLD and SEI write one flag, which in numbers is
`putFlag_d_false` and `putFlag_i_true`. -/
theorem flagNopResult : Obligations.FlagNopResult := by
  intro s
  rw [← putFlag_d_false, ← putFlag_i_true]
  refine ⟨⟨s, exec_eq_effect .nop s, rfl, ?_⟩, exec_flagResult rfl, exec_flagResult rfl⟩
  exact ⟨fun _ _ => rfl, fun _ _ => rfl, fun _ _ => rfl⟩

end Sys2Proof
end

section
/-! PROOFS. The host's side (60_exceptions.md R189): a canonical memory is built by storing its listed bytes from the
highest address to the lowest, so that each store puts its entry at the front. -/

namespace Sys2Proof.Machine

/-- Storing a byte below every listed address lists it first. -/
theorem Memory.write_eq_cons_of_wf {c : Host.Cell} {m : Memory} (h : Memory.wf (c :: m) = true) :
    Memory.write m c.1 c.2 = c :: m := by
  obtain ⟨below, _, listed, _⟩ := (Memory.wf_cons c m).1 h
  rw [Memory.write, if_neg listed]
  cases m with
  | nil => rfl
  | cons d m =>
    have hcd : c.1 < d.1 := below d List.mem_cons_self
    rw [Memory.insert, if_neg hcd.not_gt, if_neg hcd.ne']

/-- Every host interaction keeps the canonical form: those that do not store leave memory as it is or reset it. -/
theorem HostAction.wf_apply (h : HostAction) {s : State} (hs : s.wf = true) : (h.apply s).wf = true := by
  cases h with
  | construct => exact reset_mem_wf
  | writePc v => exact (State.wf_setPc s v).trans hs
  | writeReg r v => exact (State.wf_setReg s r v).trans hs
  | writeSr v => exact hs
  | writeFlag f v => exact (State.wf_setFlag s f v).trans hs
  | writeMem a v => exact State.wf_write a v hs

theorem hostSetup_append (hs ks : List HostAction) (s : State) :
    hostSetup (hs ++ ks) s = hostSetup ks (hostSetup hs s) := List.foldl_append

/-- The stores that build a memory, the last listed byte first. -/
def Memory.hostWrites : Memory → List HostAction
  | [] => []
  | c :: m => Memory.hostWrites m ++ [.writeMem (BitVec.ofNat 16 c.1) c.2]

/-- Over an empty memory, the stores of a canonical memory build it and change no register. -/
theorem hostSetup_hostWrites {m : Memory} (h : m.wf = true) (s : State) :
    hostSetup m.hostWrites { s with mem := [] } = { s with mem := m } := by
  induction m with
  | nil => rfl
  | cons c m ih =>
    obtain ⟨_, inRange, _, hm⟩ := (Memory.wf_cons c m).1 h
    have haddr : (BitVec.ofNat 16 c.1).toNat = c.1 := (BitVec.toNat_ofNat _ _).trans (Nat.mod_eq_of_lt inRange)
    calc hostSetup (Memory.hostWrites (c :: m)) { s with mem := [] }
        = State.write { s with mem := m } (BitVec.ofNat 16 c.1) c.2 := by
          rw [Memory.hostWrites, hostSetup_append, ih hm]; rfl
      _ = { s with mem := c :: m } := by rw [State.write, haddr, Memory.write_eq_cons_of_wf h]

/-- The interactions that give the six registers the values they have in `s`. -/
def State.hostRegWrites (s : State) : List HostAction :=
  [.writePc s.pc, .writeReg .sp s.sp, .writeReg .ac s.ac, .writeReg .x s.x, .writeReg .y s.y, .writeSr s.sr]

theorem hostSetup_hostRegWrites (s t : State) : hostSetup s.hostRegWrites t = { s with mem := t.mem } := rfl

/-- From the reset state, the registers' writes and then memory's stores build any canonical state. -/
theorem hostSetup_reset_eq {s : State} (h : s.wf = true) :
    hostSetup (s.hostRegWrites ++ s.mem.hostWrites) State.reset = s := by
  rw [hostSetup_append, hostSetup_hostRegWrites]
  exact hostSetup_hostWrites h s

/-- Settles O43: the form is kept action by action, and a state's own registers and listed bytes say how to build it. -/
theorem hostBuildsEveryLaunchState : Obligations.HostBuildsEveryLaunchState :=
  ⟨fun h _ hs => h.wf_apply hs, fun _ hs => ⟨_, hostSetup_reset_eq hs⟩⟩

end Sys2Proof.Machine
end

section
/-! PROOFS. The statements of 30_encoding.md on the coder: decoding undoes encoding and encoding undoes decoding, because
the opcode map and the operand bytes can each be read both ways. -/

namespace Sys2Proof

open Machine Claims

/-! ### Every entry is mapped -/

theorem exists_opcodeOf (e : Entry) : ∃ b, opcodeOf e = some b := by
  cases e <;> exact ⟨_, rfl⟩

/-- Well-formedness asks for a row of the instruction's entry, and such a row is what `opcodeOf` reads. -/
theorem wf_of_opcodeOf {i : Instr} {b : Byte} (h : opcodeOf i.entry = some b) : i.wf = true := by
  obtain ⟨row, found, _⟩ := Option.map_eq_some_iff.1 h
  have sameEntry : (row.2 == i.entry) = true := by simpa using List.find?_some found
  exact List.any_eq_true.2 ⟨row, List.mem_of_find?_eq_some found, sameEntry⟩

/-! ### The two round trips -/

/-- An instruction assembled from as many bytes as its format has keeps all of them as its operand. -/
theorem operandBytes_assemble {e : Entry} {bs : List Byte} (h : bs.length = e.format.operandCount) :
    (assemble e bs).operandBytes = bs := by
  cases e with
  | rts | sei | dey | txs | tay | tax | iny | dex | cld | inx | nop =>
    rw [List.length_eq_zero_iff.1 h]
    rfl
  | oraImm | andImm | ldyImm | ldxImm | ldaImm | oraZp | andZp | ldyZp | ldaZp | ldxZp | ldyZpx | ldaZpx | ldxZpy
  | bneRel | beqRel =>
    obtain ⟨b, rfl⟩ := List.length_eq_one_iff.1 h
    rfl
  | oraAbs | jsrAbs | andAbs | jmpAbs | styAbs | stxAbs | decAbs | incAbs | cmpAbx =>
    obtain ⟨lo, hi, rfl⟩ := List.length_eq_two.1 h
    simp [assemble, Instr.operandBytes]

theorem decode_encode (i : Instr) (rest : List Byte) : decode (encode i ++ rest) = .ok (i, rest) := by
  obtain ⟨b, mapped⟩ := exists_opcodeOf i.entry
  rw [encode_eq mapped, List.cons_append, decode_cons_eq_ok_iff]
  refine ⟨i.entry, lookup_of_opcodeOf mapped, ?_⟩
  rw [← operandBytes_length, List.take_left, List.drop_left, assemble_operandBytes, List.length_append]
  exact ⟨Nat.le_add_right _ _, rfl, rfl⟩

/-- Settles O12: every entry has an opcode byte, which makes the instruction well-formed and its encoding decode
(`decode_encode`). -/
theorem decodeEncodeRoundTrip : Obligations.DecodeEncodeRoundTrip := by
  intro i rest
  obtain ⟨b, mapped⟩ := exists_opcodeOf i.entry
  exact ⟨wf_of_opcodeOf mapped, decode_encode i rest⟩

/-- Settles O13: the opcode byte is the one of the entry that it selects, and the operand bytes are kept in the
instruction (`operandBytes_assemble`). -/
theorem decodedBytesAreTheEncoding : Obligations.DecodedBytesAreTheEncoding := by
  intro bs rest i h
  cases bs with
  | nil => cases h
  | cons b o =>
    obtain ⟨e, mapped, enough, rfl, rfl⟩ := decode_cons_eq_ok_iff.1 h
    have opcode : opcodeOf (assemble e (o.take e.format.operandCount)).entry = some b := by
      rw [entry_assemble, opcodeOf_of_lookup mapped]
    rw [encode_eq opcode, operandBytes_assemble (List.length_take_of_le enough), List.cons_append,
      List.take_append_drop]

/-! ### The rows of the opcode map -/

/-- An address operand stands after the opcode byte with its low byte first (30_encoding.md R81, R83). -/
theorem encode_joinBytes {i : Instr} {b hi lo : Byte} (mapped : opcodeOf i.entry = some b)
    (operand : i.operandBytes = [lowByte (joinBytes hi lo), highByte (joinBytes hi lo)]) : encode i = [b, lo, hi] := by
  rw [encode_eq mapped, operand, lowByte_joinBytes, highByte_joinBytes]

/-- Settles O10: an encoding is the opcode byte of the entry and the operand bytes (`encode_eq`); of an address these are
its two halves (`encode_joinBytes`). -/
theorem encodingFollowsOpcodeMap : Obligations.EncodingFollowsOpcodeMap := by
  refine ⟨fun b => ?_, fun hi lo => ?_, ?_⟩
  · and_intros <;> exact encode_eq rfl
  · and_intros <;> exact encode_joinBytes rfl rfl
  · and_intros <;> exact encode_eq rfl

/-- Settles O11: each word is the encoding of its instruction with nothing after it, so `decode_encode` reads it. -/
theorem sampleWordsDecode : Obligations.SampleWordsDecode :=
  ⟨decode_encode (.andImm 0xF0) [], decode_encode (.cmpAbx 0x1234) [], decode_encode (.decAbs 0xDEAD) [],
    decode_encode .inx [], decode_encode (.ldxZpy 0x10) [], decode_encode (.ldaImm 0x01) [],
    decode_encode (.jmpAbs 0x1234) [], decode_encode (.jsrAbs 0xDEAD) [], decode_encode .rts [],
    decode_encode (.beqRel 0x04) [], decode_encode .sei [], decode_encode .cld []⟩

/-! ### Unmapped bytes -/

/-- The one way to be rejected by name is an opcode byte without an entry (R85); the bytes after it take no part. -/
theorem decode_cons_eq_unmapped_iff {b c : Byte} {o : List Byte} :
    decode (b :: o) = .error (.unmappedOpcode c) ↔ lookup b = none ∧ c = b := by
  cases h : lookup b with
  | none => simp [decode, h, eq_comm]
  | some e => by_cases hlen : o.length < e.format.operandCount <;> simp [decode, h, hlen]

theorem mappedBytes_nodup : mappedBytes.Nodup := by
  have distinct : opcodeMap.bytesDistinct = true := (Bool.and_eq_true_iff.1 opcodeMap_wf).1
  exact of_decide_eq_true distinct

/-- Settles O15: the statements' list of bytes is the first column of the opcode map, whose lookup decides the
rejection. -/
theorem otherBytesAreUnmapped : Obligations.OtherBytesAreUnmapped := by
  refine ⟨rfl, mappedBytes_nodup, fun b rest => ?_⟩
  rw [decode_cons_eq_unmapped_iff, lookup_eq_none_iff, and_iff_left rfl]

end Sys2Proof
end

section
/-! PROOFS. The step (40_step_and_addressing.md R100 to R102): when it faults, and which instruction it runs. -/

namespace Sys2Proof

open Machine Claims

/-! ### The fault -/

/-- The inversion of a faulting step: it faults exactly at an unmapped byte, with the fault of that byte. -/
theorem step_eq_fault_iff {s : State} {f : Fault} : step s = .fault f ↔ FaultAtPc s f := by
  rw [FaultAtPc, ← lookup_eq_none_iff]
  constructor
  · intro h
    rcases step_cases s with ⟨unmapped, hfault⟩ | ⟨e, mapped, _⟩
    · exact ⟨unmapped, Host.Outcome.fault.inj (h.symm.trans hfault)⟩
    · cases h.symm.trans (step_eq_afterInstr mapped)
  · rintro ⟨unmapped, rfl⟩
    exact step_of_unmapped unmapped

/-- Settles O17: the fault carries the state with pc set one further (`step_of_unmapped`), and setting pc changes nothing
else. -/
theorem unmappedOpcodeFaults : Obligations.UnmappedOpcodeFaults := fun s h =>
  ⟨s.setPc (s.pc + 1), step_of_unmapped h, rfl, rfl, rfl, rfl, rfl, rfl, fun _ _ => rfl⟩

/-! ### The instruction at pc -/

/-- No format has more than two operand bytes (30_encoding.md R81), so the fetched operand is in the three bytes at pc. -/
theorem operandsAt_eq_take (e : Entry) (s : State) :
    operandsAt e s = [s.read (s.pc + 1), s.read (s.pc + 2)].take e.format.operandCount := by
  have count : e.format.operandCount = 0 ∨ e.format.operandCount = 1 ∨ e.format.operandCount = 2 := by
    cases e.format <;> decide
  rcases count with h | h | h
  · rw [operandsAt, h]
    rfl
  · rw [operandsAt_of_count_one s h, h]
    rfl
  · rw [operandsAt_of_count_two s h, h]
    rfl

/-- Settles O16: the decoder and the step look up the same byte and assemble the same operand bytes
(`operandsAt_eq_take`). -/
theorem stepRunsDecodedInstruction : Obligations.StepRunsDecodedInstruction := by
  refine ⟨fun s i rest h => ?_, fun s b h => ?_⟩
  · obtain ⟨e, mapped, _, rfl, _⟩ := decode_cons_eq_ok_iff.1 h
    rw [step_of_mapped mapped, operandsAt_eq_take, Instr.length, entry_assemble]
    rfl
  · obtain ⟨unmapped, rfl⟩ := decode_cons_eq_unmapped_iff.1 h
    exact ⟨rfl, step_of_unmapped unmapped⟩

end Sys2Proof
end

section
/-! PROOFS. The canonical form of memory (log 17): reset has it, every step keeps it, and a memory in this form is
determined by what it reads as. -/

namespace Sys2Proof.Machine

open Claims

/-- Settles O2: nothing is listed after reset. -/
theorem resetMemoryIsCanonical : Obligations.ResetMemoryIsCanonical := reset_mem_wf

/-! ### Every step keeps the form -/

/-- Every effect keeps the canonical form: those that store do it by `State.write`, the others leave memory as it is. -/
theorem Effect.wf_run (x : Effect) {s : State} (h : s.wf = true) : (x.run s).wf = true := by
  cases x with
  | putZN r v => exact (wf_opPutZN r v s).trans h
  | modifyMem a v => exact (State.wf_setZN (s.write a v) v).trans (State.wf_write a v h)
  | store a v => exact State.wf_write a v h
  | putReg r v => exact (State.wf_setReg s r v).trans h
  | compare r m => exact (State.wf_setCompare s r m).trans h
  | putFlag f v => exact (State.wf_setFlag s f v).trans h
  | jump w => exact (State.wf_setPc s w).trans h
  | call w => exact wf_opCall w h
  | ret => rwa [Effect.run, opReturn_eq, State.wf_setPc, State.wf_setReg]
  | nothing => exact h

/-- Settles O41: a completed step is an effect (`Effect.wf_run`) on the state with pc moved, and a fault's observed state
has pc moved alone. -/
theorem stepKeepsCanonicalMemory : Obligations.StepKeepsCanonicalMemory := by
  refine fun s hs => ⟨fun t h => ?_, fun f h => ?_⟩
  · obtain ⟨e, _, rfl⟩ := step_next_afterInstr h
    exact Effect.wf_run _ ((State.wf_setPc s _).trans hs)
  · obtain ⟨_, rfl⟩ := step_eq_fault_iff.1 h
    exact hs

/-! ### Listed bytes and read bytes -/

/-- An address that does not read as unlisted is listed, with the byte it reads as. -/
theorem Memory.mem_of_read_ne {m : Memory} {a : Nat} (h : m.read a ≠ Memory.unlisted) :
    (a, m.read a) ∈ m := by
  induction m with
  | nil => exact absurd (Memory.read_nil a) h
  | cons c m ih =>
    rw [Memory.read_cons] at h ⊢
    by_cases first : c.1 = a
    · rw [if_pos first, ← first]
      exact List.mem_cons_self
    · rw [if_neg first] at h ⊢
      exact List.mem_cons_of_mem c (ih h)

/-- A canonical memory lists no address twice, so a listed byte is what its address reads as. -/
theorem Memory.read_of_mem {m : Memory} (hm : m.wf = true) {c : Host.Cell} (hc : c ∈ m) :
    m.read c.1 = c.2 := by
  induction m with
  | nil => cases hc
  | cons d m ih =>
    obtain ⟨below, _, _, tailWf⟩ := (Memory.wf_cons d m).1 hm
    rw [Memory.read_cons]
    rcases List.mem_cons.1 hc with rfl | hc
    · exact if_pos rfl
    · rw [if_neg (below c hc).ne, ih tailWf hc]

theorem mem_subset_of_memKept {s t : State} (hs : s.wf = true) (kept : MemKept [] s t) : s.mem ⊆ t.mem := by
  intro c hc
  obtain ⟨inRange, listed⟩ := ((Memory.wf_iff s.mem).1 hs).2 c hc
  have address : (BitVec.ofNat 16 c.1).toNat = c.1 := (BitVec.toNat_ofNat _ _).trans (Nat.mod_eq_of_lt inRange)
  have reads : t.mem.read c.1 = c.2 :=
    calc t.mem.read c.1 = t.read (BitVec.ofNat 16 c.1) := by rw [State.read, address]
      _ = s.read (BitVec.ofNat 16 c.1) := kept _ List.not_mem_nil
      _ = c.2 := by rw [State.read, address, Memory.read_of_mem hs hc]
  have found := Memory.mem_of_read_ne (m := t.mem) (a := c.1) (reads ▸ listed)
  rwa [reads] at found

/-- Lists with the same elements in strictly rising order are equal. -/
theorem mem_eq_of_memKept {s t : State} (hs : s.wf = true) (ht : t.wf = true) (kept : MemKept [] s t) :
    s.mem = t.mem := by
  have : Std.Irrefl fun c d : Host.Cell => c.1 < d.1 := ⟨fun c => lt_irrefl c.1⟩
  have : Std.Antisymm fun c d : Host.Cell => c.1 < d.1 := ⟨fun _ _ h h' => absurd h h'.asymm⟩
  exact List.Subset.antisymm_of_pairwise ((Memory.wf_iff s.mem).1 hs).1 ((Memory.wf_iff t.mem).1 ht).1
    (mem_subset_of_memKept hs kept) (mem_subset_of_memKept ht fun a ha => (kept a ha).symm)

theorem eq_of_fields_eq {s t : State} (pcEq : s.pc = t.pc) (srEq : s.sr = t.sr) (regEq : ∀ r, s.reg r = t.reg r)
    (memEq : s.mem = t.mem) : s = t := by
  cases s
  cases t
  rw [State.mk.injEq]
  exact ⟨pcEq, regEq .sp, regEq .ac, regEq .x, regEq .y, srEq, memEq⟩

/-- Settles O42: the two memories list the same bytes in the same order (`mem_eq_of_memKept`), and the other fields are
given. -/
theorem canonicalStatesAreDetermined : Obligations.CanonicalStatesAreDetermined := fun _ _ hs ht pcEq srEq regs kept =>
  eq_of_fields_eq pcEq srEq (fun r => (regs r List.not_mem_nil).symm) (mem_eq_of_memKept hs ht kept)

end Sys2Proof.Machine
end

section
/-! PROOFS. Runs (70_reset_and_hazards.md R204). `Reaches` says what a run has come to after `k` steps and `Throughout`
what holds of each of its first `k` states; both follow a run step by step, and so do the statements. -/

namespace Sys2Proof

open Machine Claims

/-! ### What a step can end in -/

/-- A step ends in a next state or in a fault (00_scope.md R10). -/
theorem step_next_or_fault (s : State) : (∃ t, step s = .next t) ∨ ∃ f, step s = .fault f := by
  rcases stepCompletesExactlyOnMapped s with ⟨_, completes⟩ | ⟨_, hfault⟩
  · exact .inl completes
  · exact .inr ⟨_, hfault⟩

theorem opcodeMapped_iff (s : State) : s.opcodeMapped = true ↔ ∃ t, step s = .next t := by
  rw [State.opcodeMapped, Option.isSome_iff_exists]
  constructor
  · rintro ⟨e, mapped⟩
    exact ⟨_, step_eq_afterInstr mapped⟩
  · rintro ⟨t, h⟩
    obtain ⟨e, opcode, _⟩ := step_next h
    exact ⟨e, lookup_of_opcodeOf opcode⟩

/-! ### The states of a run -/

/-- From `s`, `k` steps complete, to a state with `P`. -/
def Reaches (k : Nat) (P : State → Prop) (s : State) : Prop := ∃ t, Sys2Proof.core.run k s = .next t ∧ P t

/-- From `s`, each of the first `k` states of the run is reached and has `P`. -/
def Throughout (k : Nat) (P : State → Prop) (s : State) : Prop := ∀ j < k, Reaches j P s

theorem reaches_zero {P : State → Prop} {s : State} : Reaches 0 P s ↔ P s := by
  constructor
  · rintro ⟨_, ⟨⟩, h⟩
    exact h
  · exact fun h => ⟨s, run_zero s, h⟩

theorem reaches_succ_of_next {k : Nat} {P : State → Prop} {s t : State} (h : step s = .next t) :
    Reaches (k + 1) P s ↔ Reaches k P t := by
  rw [Reaches, run_next k h, Reaches]

theorem not_reaches_succ_of_fault {k : Nat} {P : State → Prop} {s : State} {f : Fault} (h : step s = .fault f) :
    ¬Reaches (k + 1) P s := by
  rintro ⟨t, hrun, _⟩
  cases (run_fault k h).symm.trans hrun

theorem throughout_zero {P : State → Prop} {s : State} : Throughout 0 P s :=
  fun j hj => absurd hj j.not_lt_zero

theorem first_of_throughout_succ {k : Nat} {P : State → Prop} {s : State} (h : Throughout (k + 1) P s) : P s :=
  reaches_zero.1 (h 0 k.succ_pos)

theorem throughout_one {P : State → Prop} {s : State} : Throughout 1 P s ↔ P s := by
  rw [Throughout, Nat.forall_lt_succ_left, reaches_zero]
  exact and_iff_left fun j hj => absurd hj j.not_lt_zero

theorem throughout_succ_of_next {k : Nat} {P : State → Prop} {s t : State} (h : step s = .next t) :
    Throughout (k + 1) P s ↔ P s ∧ Throughout k P t := by
  rw [Throughout, Nat.forall_lt_succ_left, reaches_zero]
  simp only [reaches_succ_of_next h, Throughout]

/-! ### Counted runs -/

/-- Settles O46: by induction on the number of steps, of which the first completes exactly on a mapped byte. -/
theorem safeRunsMeetMappedBytesOnly : Obligations.SafeRunsMeetMappedBytesOnly := by
  intro n s
  change SafeFor n s ↔ Throughout n (·.opcodeMapped = true) s
  induction n generalizing s with
  | zero => exact iff_of_true ⟨s, run_zero s⟩ throughout_zero
  | succ n ih =>
    rcases step_next_or_fault s with ⟨t, h⟩ | ⟨f, h⟩
    · rw [SafeFor, run_next n h, ← SafeFor, ih t, throughout_succ_of_next h,
        and_iff_right ((opcodeMapped_iff s).2 ⟨t, h⟩)]
    · refine iff_of_false ?_ fun safe => ?_
      · rintro ⟨t, hrun⟩
        cases (run_fault n h).symm.trans hrun
      · obtain ⟨t, hnext⟩ := (opcodeMapped_iff s).1 (first_of_throughout_succ safe)
        cases h.symm.trans hnext

theorem run_eq_fault_iff (n : Nat) (s : State) (f : Fault) :
    Sys2Proof.core.run n s = .fault f ↔ ∃ k < n, Reaches k (FaultAtPc · f) s := by
  induction n generalizing s with
  | zero => simp [run_zero]
  | succ n ih =>
    rw [Nat.exists_lt_succ_left, reaches_zero, ← step_eq_fault_iff]
    rcases step_next_or_fault s with ⟨t, h⟩ | ⟨g, h⟩
    · rw [run_next n h, ih t, h]
      simp only [reaches_succ_of_next h, reduceCtorEq, false_or]
    · rw [run_fault n h, h]
      simp only [not_reaches_succ_of_fault h, and_false, exists_false, or_false]
      exact Iff.rfl

/-! ### Runs to an end -/

theorem runUntil_eq_fault_iff (p : State → Bool) (n : Nat) (s : State) (f : Fault) :
    runUntil p n s = some (.fault f) ↔
      ∃ k < n, Reaches k (FaultAtPc · f) s ∧ Throughout (k + 1) (p · = false) s := by
  fun_induction runUntil p n s with
  | case1 | case2 => simp
  | case3 n s ended =>
    refine iff_of_false (fun h => by cases h) ?_
    rintro ⟨k, _, _, unended⟩
    cases ended.symm.trans (first_of_throughout_succ unended)
  | case4 n s unended t h ih =>
    rw [Nat.exists_lt_succ_left, reaches_zero, ← step_eq_fault_iff, ih, h]
    simp only [reaches_succ_of_next h, throughout_succ_of_next h, unended, true_and, reduceCtorEq, false_and, false_or]
  | case5 n s unended g h =>
    rw [Nat.exists_lt_succ_left, reaches_zero, ← step_eq_fault_iff, throughout_one,
      and_iff_left (Bool.eq_false_iff.2 unended), h]
    simp only [not_reaches_succ_of_fault h, false_and, and_false, exists_false, or_false, Option.some.injEq]
  | case6 n s _ r h => exact absurd h (step_never_refused s r)

/-- Settles O44: both clauses by induction on the number of steps; the run goes on exactly when its first step does. -/
theorem faultEndsTheRun : Obligations.FaultEndsTheRun := by
  refine ⟨run_eq_fault_iff, fun p n s f => ?_⟩
  simp only [← Nat.lt_add_one_iff]
  exact runUntil_eq_fault_iff p n s f

/-- Settles O45: along the recursion of `runUntil`; where it goes on, a step has completed from a state that is no end. -/
theorem endedRunsCompletedTheirSteps : Obligations.EndedRunsCompletedTheirSteps := by
  intro p n s t h
  change p t = true ∧ ∃ k ≤ n, Sys2Proof.core.run k s = .next t ∧ Throughout k (p · = false) s
  fun_induction runUntil p n s with
  | case1 _ ended | case3 _ _ ended =>
    cases h
    exact ⟨ended, 0, Nat.zero_le _, run_zero _, throughout_zero⟩
  | case4 n s unended u hstep ih =>
    obtain ⟨ended, k, hk, hrun, before⟩ := ih h
    exact ⟨ended, k + 1, Nat.succ_le_succ hk, (run_next k hstep).trans hrun,
      (throughout_succ_of_next hstep).2 ⟨Bool.eq_false_iff.2 unended, before⟩⟩
  | case2 | case5 | case6 => cases h

end Sys2Proof
end

section
/-! PROOFS. The reset state (10_state.md R33) and `Pop` (20_memory.md R64). -/

namespace Sys2Proof

open Machine Claims

/-- Settles O1: the fields are reset's by definition; the first push is O5's clause for SP = 0x00, and the first step
meets the unmapped 0x00. -/
theorem resetStateIsZero : Obligations.ResetStateIsZero := by
  obtain ⟨_, pushAtZero⟩ := pushStoresThenDecrements
  exact ⟨rfl, rfl, rfl, rfl, rfl, rfl, fun f => BitVec.getLsbD_zero, reset_read, fun b => pushAtZero State.reset b rfl,
    _, step_of_unmapped rfl⟩

/-- Settles O6: a pop is a `setReg` of SP and a read at the stack address of the new SP. -/
theorem popIncrementsThenReads : Obligations.PopIncrementsThenReads := by
  intro s
  have spUp : (s.sp + 1).toNat = (s.sp.toNat + 1) % 256 := BitVec.toNat_add s.sp 1
  rw [State.pop_value, State.pop_state, ← spUp]
  exact ⟨stackAddr (s.sp + 1), stackAddr_toNat _, rfl, rfl, regsKept_setReg .sp _ s, State.setReg_pc s .sp _,
    fun f _ => State.setReg_flag s .sp _ f, fun a _ => State.setReg_read s .sp _ a⟩

end Sys2Proof
end
